-- ==== Sys2Proof/Word.lean ====
section
/-! DEFINITION. The words of the machine (00_scope R10, R11; 10_state R40, R41, R91, R100, R103): names for the bit
vectors the manual adds, shifts and masks, and nothing more. -/
namespace Sys2Proof

/-- A byte of memory or of an instruction. -/
abbrev Byte := BitVec 8
/-- 16 bits: a word, a selector, a port number. -/
abbrev Word16 := BitVec 16
/-- 32 bits: a general register, an offset, a linear address. -/
abbrev Word32 := BitVec 32
/-- 64 bits: an MMX value, an MSR, a descriptor. -/
abbrev Word64 := BitVec 64
/-- 80 bits: an x87 data register (10_state R91). -/
abbrev Word80 := BitVec 80
/-- 128 bits: an XMM register (10_state R103). -/
abbrev Word128 := BitVec 128
/-- The three-bit register number of a reg, r/m, base or index field (30_encoding R321). -/
abbrev RegNum := BitVec 3
/-- The four-bit condition field tttn (10_state R52). -/
abbrev Cond := BitVec 4

end Sys2Proof
end

