-- ==== Sys2Proof/Syntax.lean ====
section
/-! DEFINITION. The instructions of the opcode table (spec/opcode_table.json; 30_encoding), one constructor for each
mnemonic, its operand form saying which of the mnemonic's rows it is (log 28). Operands keep the shape of their
encoding, so that an instruction term says exactly which bytes it stands for. -/
namespace Sys2Proof

/-- The six segment registers (10_state R56). -/
inductive Seg where
  | es | cs | ss | ds | fs | gs
  deriving DecidableEq, Repr

/-- The displacement after the ModR/M byte of a 16-bit form (30_encoding R343). -/
inductive Disp16 where
  | none | d8 (d : Byte) | d16 (d : Word16)
  deriving DecidableEq, Repr

/-- The displacement after the ModR/M or SIB byte of a 32-bit form (30_encoding R341, R342). -/
inductive Disp32 where
  | none | d8 (d : Byte) | d32 (d : Word32)
  deriving DecidableEq, Repr

/-- A memory operand as ModR/M and SIB encode it (30_encoding R341 to R343). -/
inductive MemRef where
  /-- 16-bit form: r/m names the registers; r/m 110 needs a displacement. -/
  | base16 (rm : RegNum) (d : Disp16)
  /-- 16-bit form: mod 00, r/m 110, the displacement alone. -/
  | abs16 (d : Word16)
  /-- 32-bit form without SIB: r/m is not 100, and r/m 101 needs a displacement. -/
  | base32 (rm : RegNum) (d : Disp32)
  /-- 32-bit form: mod 00, r/m 101, the displacement alone. -/
  | abs32 (d : Word32)
  /-- SIB form with a base; base 101 needs a displacement. -/
  | sib (scale : BitVec 2) (index base : RegNum) (d : Disp32)
  /-- SIB form with mod 00 and base 101: no base register, a 32-bit displacement. -/
  | sibAbs (scale : BitVec 2) (index : RegNum) (d : Word32)
  deriving DecidableEq, Repr

/-- A ModR/M operand: a register (mod 11) or memory (30_encoding R340). -/
inductive Rm where
  | reg (r : RegNum) | mem (m : MemRef)
  deriving DecidableEq, Repr

/-- An immediate or a relative offset of 1, 2 or 4 bytes (30_encoding R347, R348). -/
inductive Imm where
  | i8 (v : Byte) | i16 (v : Word16) | i32 (v : Word32)
  deriving DecidableEq, Repr

/-- The direct offset of opcodes A0 to A3, as wide as the address size (30_encoding R346). -/
inductive MOffs where
  | o16 (o : Word16) | o32 (o : Word32)
  deriving DecidableEq, Repr

/-- The far pointer of opcodes 9A and EA: offset, then selector (30_encoding R346). -/
inductive FarPtr where
  | p16 (off : Word16) (sel : Word16) | p32 (off : Word32) (sel : Word16)
  deriving DecidableEq, Repr

/-- The rows of a two-operand arithmetic or logic mnemonic (40 R460 to R467); w false means bytes (30_encoding R322). -/
inductive AluForm where
  | rmReg (w : Bool) (rm : Rm) (r : RegNum)
  | regRm (w : Bool) (r : RegNum) (rm : Rm)
  | accImm (imm : Imm)
  | rmImm (s w : Bool) (rm : Rm) (imm : Imm)
  deriving DecidableEq, Repr

/-- The rows of INC and DEC (40 R470, R471). -/
inductive IncForm where
  | rm (w : Bool) (rm : Rm) | reg (r : RegNum)
  deriving DecidableEq, Repr

/-- The rows of TEST (40 R474). -/
inductive TestForm where
  | rmReg (w : Bool) (rm : Rm) (r : RegNum) | rmImm (rm : Rm) (imm : Imm) | accImm (imm : Imm)
  deriving DecidableEq, Repr

/-- The rows of a shift or rotate: by 1, by CL, by an immediate (40 R490). -/
inductive ShiftForm where
  | one (w : Bool) (rm : Rm) | cl (w : Bool) (rm : Rm) | imm (w : Bool) (rm : Rm) (n : Byte)
  deriving DecidableEq, Repr

/-- The rows of SHLD and SHRD (40 R498, R499). -/
inductive DblForm where
  | imm (rm : Rm) (r : RegNum) (n : Byte) | cl (rm : Rm) (r : RegNum)
  deriving DecidableEq, Repr

/-- The rows of BT, BTS, BTR and BTC (40 R510 to R513). -/
inductive BitForm where
  | imm (rm : Rm) (n : Byte) | reg (rm : Rm) (r : RegNum)
  deriving DecidableEq, Repr

/-- The general-register rows of MOV (41 R600, R601). -/
inductive MovForm where
  | rmReg (w : Bool) (rm : Rm) (r : RegNum) | regRm (w : Bool) (r : RegNum) (rm : Rm)
  | rmImm (rm : Rm) (imm : Imm) | regImm (r : RegNum) (imm : Imm)
  deriving DecidableEq, Repr

/-- The rows of XCHG (41 R606). -/
inductive XchgForm where
  | rmReg (w : Bool) (rm : Rm) (r : RegNum) | acc (r : RegNum)
  deriving DecidableEq, Repr

/-- The rows of PUSH (41 R621, R622). -/
inductive PushForm where
  | rm (rm : Rm) | reg (r : RegNum) | imm (imm : Imm) | seg (sr : Seg)
  deriving DecidableEq, Repr

/-- The rows of POP (41 R623, R624). -/
inductive PopForm where
  | rm (rm : Rm) | reg (r : RegNum) | seg (sr : Seg)
  deriving DecidableEq, Repr

/-- The rows of IN and OUT: an immediate port or DX (41 R701, R702). -/
inductive PortForm where
  | imm (w : Bool) (port : Byte) | dx (w : Bool)
  deriving DecidableEq, Repr

/-- The near rows of JMP and CALL (42 R730, R740). -/
inductive NearForm where
  | rel (d : Imm) | rm (rm : Rm)
  deriving DecidableEq, Repr

/-- The far rows of JMP and CALL (42 R731, R741). -/
inductive FarForm where
  | ptr (p : FarPtr) | mem (m : MemRef)
  deriving DecidableEq, Repr

/-- The rows of an x87 arithmetic mnemonic: a real operand in memory, or ST(i) as source or destination (44 R955 to R970). -/
inductive FArith where
  | m32 (m : MemRef) | m64 (m : MemRef) | st0 (i : RegNum) | sti (i : RegNum)
  deriving DecidableEq, Repr

/-- The rows of FCOM and FCOMP (44 R985, R986), and of FST (R931). -/
inductive FReal where
  | m32 (m : MemRef) | m64 (m : MemRef) | st (i : RegNum)
  deriving DecidableEq, Repr

/-- The rows of FLD and FSTP (44 R930, R932). -/
inductive FReal80 where
  | m32 (m : MemRef) | m64 (m : MemRef) | m80 (m : MemRef) | st (i : RegNum)
  deriving DecidableEq, Repr

/-- An integer operand of x87 arithmetic, FICOM or FIST (44 R957, R934). -/
inductive FInt where
  | m16 (m : MemRef) | m32 (m : MemRef)
  deriving DecidableEq, Repr

/-- An integer operand of FILD, FISTP or FISTTP (44 R933, R935, R936). -/
inductive FInt64 where
  | m16 (m : MemRef) | m32 (m : MemRef) | m64 (m : MemRef)
  deriving DecidableEq, Repr

/-- The rows of FNSTSW (44 R1024). -/
inductive StswForm where
  | mem (m : MemRef) | ax
  deriving DecidableEq, Repr

/-- A packed integer instruction in its MMX or its XMM row (45, 48): destination register, then register or memory. -/
inductive Pk where
  | mm (d : RegNum) (s : Rm) | xmm (d : RegNum) (s : Rm)
  deriving DecidableEq, Repr

/-- The rows of a packed shift: by a register or memory count, or by an immediate (45 R1090 to R1092; 48 R1426 to R1428). -/
inductive PkShift where
  | by (o : Pk) | immMm (r : RegNum) (n : Byte) | immXmm (r : RegNum) (n : Byte)
  deriving DecidableEq, Repr

/-- An instruction whose source is an MMX or an XMM register and whose destination is a general register (46 R1212, R1218). -/
inductive PkToGpr where
  | mm (d s : RegNum) | xmm (d s : RegNum)
  deriving DecidableEq, Repr

/-- The rows of MOVD (45 R1066; 48 R1365). -/
inductive MovdForm where
  | toMm (d : RegNum) (s : Rm) | fromMm (d : Rm) (s : RegNum) | toXmm (d : RegNum) (s : Rm) | fromXmm (d : Rm) (s : RegNum)
  deriving DecidableEq, Repr

/-- The rows of MOVQ (45 R1067; 48 R1370). -/
inductive MovqForm where
  | toMm (d : RegNum) (s : Rm) | fromMm (d : Rm) (s : RegNum) | toXmm (d : RegNum) (s : Rm) | fromXmm (d : Rm) (s : RegNum)
  deriving DecidableEq, Repr

/-- A load row and a store row over an XMM register and a register or memory operand. -/
inductive XMove where
  | load (d : RegNum) (s : Rm) | store (d : Rm) (s : RegNum)
  deriving DecidableEq, Repr

/-- A load row and a store row over an XMM register and memory only. -/
inductive XHalf where
  | load (d : RegNum) (s : MemRef) | store (d : MemRef) (s : RegNum)
  deriving DecidableEq, Repr

/-- The instructions. The first eleven are the prefix bytes of 30_encoding R310, each a row of the opcode table. -/
inductive Instr where
  -- prefixes (30_encoding R310 to R314)
  | lock
  | repne
  | rep
  | csOverride
  | ssOverride
  | dsOverride
  | esOverride
  | fsOverride
  | gsOverride
  | opSizeOverride
  | addrSizeOverride
  -- arithmetic and logic (40)
  | add (f : AluForm)
  | or (f : AluForm)
  | adc (f : AluForm)
  | sbb (f : AluForm)
  | and (f : AluForm)
  | sub (f : AluForm)
  | xor (f : AluForm)
  | cmp (f : AluForm)
  | inc (f : IncForm)
  | dec (f : IncForm)
  | not (w : Bool) (rm : Rm)
  | neg (w : Bool) (rm : Rm)
  | mul (w : Bool) (rm : Rm)
  | div (w : Bool) (rm : Rm)
  | idiv (w : Bool) (rm : Rm)
  | test (f : TestForm)
  | imulAcc (w : Bool) (rm : Rm)
  | imulRm (r : RegNum) (rm : Rm)
  | imulImm (r : RegNum) (rm : Rm) (imm : Imm)
  | rol (f : ShiftForm)
  | ror (f : ShiftForm)
  | rcl (f : ShiftForm)
  | rcr (f : ShiftForm)
  | shl (f : ShiftForm)
  | shr (f : ShiftForm)
  | sar (f : ShiftForm)
  | shld (f : DblForm)
  | shrd (f : DblForm)
  | bt (f : BitForm)
  | bts (f : BitForm)
  | btr (f : BitForm)
  | btc (f : BitForm)
  | bsf (r : RegNum) (rm : Rm)
  | bsr (r : RegNum) (rm : Rm)
  | bswap (r : RegNum)
  | setcc (cc : Cond) (rm : Rm)
  | xadd (w : Bool) (rm : Rm) (r : RegNum)
  | cmpxchg (w : Bool) (rm : Rm) (r : RegNum)
  | cmpxchg8b (m : MemRef)
  | clc
  | stc
  | cmc
  | cld
  | std
  | lahf
  | sahf
  | aaa
  | aas
  | daa
  | das
  | aam (n : Byte)
  | aad (n : Byte)
  -- data movement, stack, segment loads, strings, I/O (41)
  | mov (f : MovForm)
  | movFromOffs (w : Bool) (o : MOffs)
  | movToOffs (w : Bool) (o : MOffs)
  | movToSeg (sr : Seg) (rm : Rm)
  | movFromSeg (rm : Rm) (sr : Seg)
  | movsx (w : Bool) (r : RegNum) (rm : Rm)
  | movzx (w : Bool) (r : RegNum) (rm : Rm)
  | xchg (f : XchgForm)
  | nop
  | lea (r : RegNum) (m : MemRef)
  | cmovcc (cc : Cond) (r : RegNum) (rm : Rm)
  | cbw
  | cwd
  | xlat
  | push (f : PushForm)
  | pop (f : PopForm)
  | pusha
  | popa
  | pushf
  | popf
  | enter (size : Word16) (level : Byte)
  | leave
  | lds (r : RegNum) (m : MemRef)
  | les (r : RegNum) (m : MemRef)
  | lss (r : RegNum) (m : MemRef)
  | lfs (r : RegNum) (m : MemRef)
  | lgs (r : RegNum) (m : MemRef)
  | movs (w : Bool)
  | cmps (w : Bool)
  | stos (w : Bool)
  | lods (w : Bool)
  | scas (w : Bool)
  | ins (w : Bool)
  | outs (w : Bool)
  | inPort (f : PortForm)
  | outPort (f : PortForm)
  -- control transfer (42)
  | jmp (f : NearForm)
  | jmpFar (f : FarForm)
  | jcc (cc : Cond) (d : Imm)
  | jcxz (d : Byte)
  | loop (d : Byte)
  | loope (d : Byte)
  | loopne (d : Byte)
  | call (f : NearForm)
  | callFar (f : FarForm)
  | ret (n : Option Word16)
  | retf (n : Option Word16)
  | int (n : Byte)
  | int3
  | into
  | iret
  | bound (r : RegNum) (m : MemRef)
  | sysenter
  | sysexit
  -- system (43)
  | movToCr (n r : RegNum)
  | movFromCr (n r : RegNum)
  | movToDr (n r : RegNum)
  | movFromDr (n r : RegNum)
  | movTest (toTest : Bool) (n r : RegNum)
  | sgdt (m : MemRef)
  | sidt (m : MemRef)
  | lgdt (m : MemRef)
  | lidt (m : MemRef)
  | invlpg (m : MemRef)
  | smsw (rm : Rm)
  | lmsw (rm : Rm)
  | sldt (rm : Rm)
  | str (rm : Rm)
  | lldt (rm : Rm)
  | ltr (rm : Rm)
  | verr (rm : Rm)
  | verw (rm : Rm)
  | lar (r : RegNum) (rm : Rm)
  | lsl (r : RegNum) (rm : Rm)
  | arpl (rm : Rm) (r : RegNum)
  | monitor
  | mwait
  | clts
  | invd
  | wbinvd
  | ud2
  | group10
  | wrmsr
  | rdtsc
  | rdmsr
  | rdpmc
  | cpuid
  | rsm
  | cli
  | sti
  | hlt
  -- x87 (44)
  | fadd (f : FArith)
  | fmul (f : FArith)
  | fsub (f : FArith)
  | fsubr (f : FArith)
  | fdiv (f : FArith)
  | fdivr (f : FArith)
  | fcom (f : FReal)
  | fcomp (f : FReal)
  | fiadd (f : FInt)
  | fimul (f : FInt)
  | ficom (f : FInt)
  | ficomp (f : FInt)
  | fisub (f : FInt)
  | fisubr (f : FInt)
  | fidiv (f : FInt)
  | fidivr (f : FInt)
  | fld (f : FReal80)
  | fst (f : FReal)
  | fstp (f : FReal80)
  | fild (f : FInt64)
  | fist (f : FInt)
  | fistp (f : FInt64)
  | fisttp (f : FInt64)
  | fbld (m : MemRef)
  | fbstp (m : MemRef)
  | fldenv (m : MemRef)
  | fldcw (m : MemRef)
  | fnstenv (m : MemRef)
  | fnstcw (m : MemRef)
  | frstor (m : MemRef)
  | fnsave (m : MemRef)
  | fnstsw (f : StswForm)
  | faddp (i : RegNum)
  | fmulp (i : RegNum)
  | fsubp (i : RegNum)
  | fsubrp (i : RegNum)
  | fdivp (i : RegNum)
  | fdivrp (i : RegNum)
  | fcompp
  | fucompp
  | fxch (i : RegNum)
  | ffree (i : RegNum)
  | fucom (i : RegNum)
  | fucomp (i : RegNum)
  | fucomi (i : RegNum)
  | fcomi (i : RegNum)
  | fucomip (i : RegNum)
  | fcomip (i : RegNum)
  | fnop
  | fchs
  | fabs
  | ftst
  | fxam
  | fld1
  | fldl2t
  | fldl2e
  | fldpi
  | fldlg2
  | fldln2
  | fldz
  | fcmovb (i : RegNum)
  | fcmove (i : RegNum)
  | fcmovbe (i : RegNum)
  | fcmovu (i : RegNum)
  | fcmovnb (i : RegNum)
  | fcmovne (i : RegNum)
  | fcmovnbe (i : RegNum)
  | fcmovnu (i : RegNum)
  | f2xm1
  | fyl2x
  | fptan
  | fpatan
  | fxtract
  | fprem1
  | fdecstp
  | fincstp
  | fprem
  | fyl2xp1
  | fsqrt
  | fsincos
  | frndint
  | fscale
  | fsin
  | fcos
  | fnclex
  | fninit
  | fwait
  | fxsave (m : MemRef)
  | fxrstor (m : MemRef)
  -- packed integers, MMX and XMM (45, 46, 48)
  | emms
  | movd (f : MovdForm)
  | movq (f : MovqForm)
  | packsswb (o : Pk)
  | packssdw (o : Pk)
  | packuswb (o : Pk)
  | punpckhbw (o : Pk)
  | punpckhwd (o : Pk)
  | punpckhdq (o : Pk)
  | punpcklbw (o : Pk)
  | punpcklwd (o : Pk)
  | punpckldq (o : Pk)
  | paddb (o : Pk)
  | paddw (o : Pk)
  | paddd (o : Pk)
  | paddq (o : Pk)
  | paddsb (o : Pk)
  | paddsw (o : Pk)
  | paddusb (o : Pk)
  | paddusw (o : Pk)
  | psubb (o : Pk)
  | psubw (o : Pk)
  | psubd (o : Pk)
  | psubq (o : Pk)
  | psubsb (o : Pk)
  | psubsw (o : Pk)
  | psubusb (o : Pk)
  | psubusw (o : Pk)
  | pmaddwd (o : Pk)
  | pmulhuw (o : Pk)
  | pmulhw (o : Pk)
  | pmullw (o : Pk)
  | pmuludq (o : Pk)
  | pcmpeqb (o : Pk)
  | pcmpeqw (o : Pk)
  | pcmpeqd (o : Pk)
  | pcmpgtb (o : Pk)
  | pcmpgtw (o : Pk)
  | pcmpgtd (o : Pk)
  | pand (o : Pk)
  | pandn (o : Pk)
  | por (o : Pk)
  | pxor (o : Pk)
  | pavgb (o : Pk)
  | pavgw (o : Pk)
  | pmaxsw (o : Pk)
  | pmaxub (o : Pk)
  | pminsw (o : Pk)
  | pminub (o : Pk)
  | psadbw (o : Pk)
  | psllw (o : PkShift)
  | pslld (o : PkShift)
  | psllq (o : PkShift)
  | psraw (o : PkShift)
  | psrad (o : PkShift)
  | psrlw (o : PkShift)
  | psrld (o : PkShift)
  | psrlq (o : PkShift)
  | pslldq (r : RegNum) (n : Byte)
  | psrldq (r : RegNum) (n : Byte)
  | punpckhqdq (d : RegNum) (s : Rm)
  | punpcklqdq (d : RegNum) (s : Rm)
  | pextrw (o : PkToGpr) (n : Byte)
  | pinsrw (o : Pk) (n : Byte)
  | pmovmskb (o : PkToGpr)
  | pshufw (d : RegNum) (s : Rm) (n : Byte)
  | pshufd (d : RegNum) (s : Rm) (n : Byte)
  | pshufhw (d : RegNum) (s : Rm) (n : Byte)
  | pshuflw (d : RegNum) (s : Rm) (n : Byte)
  | maskmovq (s m : RegNum)
  | maskmovdqu (s m : RegNum)
  | movntq (m : MemRef) (s : RegNum)
  | movntdq (m : MemRef) (s : RegNum)
  | movntps (m : MemRef) (s : RegNum)
  | movntpd (m : MemRef) (s : RegNum)
  | movnti (m : MemRef) (s : RegNum)
  | prefetchnta (m : MemRef)
  | prefetcht0 (m : MemRef)
  | prefetcht1 (m : MemRef)
  | prefetcht2 (m : MemRef)
  | clflush (m : MemRef)
  | sfence
  | lfence
  | mfence
  | pause
  | movdqa (f : XMove)
  | movdqu (f : XMove)
  | movq2dq (d s : RegNum)
  | movdq2q (d s : RegNum)
  -- SSE and SSE2 floating point (46, 47)
  | movaps (f : XMove)
  | movups (f : XMove)
  | movapd (f : XMove)
  | movupd (f : XMove)
  | movss (f : XMove)
  | movsd (f : XMove)
  | movlps (f : XHalf)
  | movhps (f : XHalf)
  | movlpd (f : XHalf)
  | movhpd (f : XHalf)
  | movhlps (d s : RegNum)
  | movlhps (d s : RegNum)
  | movmskps (d s : RegNum)
  | movmskpd (d s : RegNum)
  | addps (d : RegNum) (s : Rm)
  | addpd (d : RegNum) (s : Rm)
  | addss (d : RegNum) (s : Rm)
  | addsd (d : RegNum) (s : Rm)
  | subps (d : RegNum) (s : Rm)
  | subpd (d : RegNum) (s : Rm)
  | subss (d : RegNum) (s : Rm)
  | subsd (d : RegNum) (s : Rm)
  | mulps (d : RegNum) (s : Rm)
  | mulpd (d : RegNum) (s : Rm)
  | mulss (d : RegNum) (s : Rm)
  | mulsd (d : RegNum) (s : Rm)
  | divps (d : RegNum) (s : Rm)
  | divpd (d : RegNum) (s : Rm)
  | divss (d : RegNum) (s : Rm)
  | divsd (d : RegNum) (s : Rm)
  | sqrtps (d : RegNum) (s : Rm)
  | sqrtpd (d : RegNum) (s : Rm)
  | sqrtss (d : RegNum) (s : Rm)
  | sqrtsd (d : RegNum) (s : Rm)
  | maxps (d : RegNum) (s : Rm)
  | maxpd (d : RegNum) (s : Rm)
  | maxss (d : RegNum) (s : Rm)
  | maxsd (d : RegNum) (s : Rm)
  | minps (d : RegNum) (s : Rm)
  | minpd (d : RegNum) (s : Rm)
  | minss (d : RegNum) (s : Rm)
  | minsd (d : RegNum) (s : Rm)
  | rcpps (d : RegNum) (s : Rm)
  | rcpss (d : RegNum) (s : Rm)
  | rsqrtps (d : RegNum) (s : Rm)
  | rsqrtss (d : RegNum) (s : Rm)
  | andps (d : RegNum) (s : Rm)
  | andpd (d : RegNum) (s : Rm)
  | andnps (d : RegNum) (s : Rm)
  | andnpd (d : RegNum) (s : Rm)
  | orps (d : RegNum) (s : Rm)
  | orpd (d : RegNum) (s : Rm)
  | xorps (d : RegNum) (s : Rm)
  | xorpd (d : RegNum) (s : Rm)
  | unpckhps (d : RegNum) (s : Rm)
  | unpckhpd (d : RegNum) (s : Rm)
  | unpcklps (d : RegNum) (s : Rm)
  | unpcklpd (d : RegNum) (s : Rm)
  | comiss (d : RegNum) (s : Rm)
  | comisd (d : RegNum) (s : Rm)
  | ucomiss (d : RegNum) (s : Rm)
  | ucomisd (d : RegNum) (s : Rm)
  | cmpps (d : RegNum) (s : Rm) (n : Byte)
  | cmppd (d : RegNum) (s : Rm) (n : Byte)
  | cmpss (d : RegNum) (s : Rm) (n : Byte)
  | cmpsd (d : RegNum) (s : Rm) (n : Byte)
  | shufps (d : RegNum) (s : Rm) (n : Byte)
  | shufpd (d : RegNum) (s : Rm) (n : Byte)
  | cvtpi2ps (d : RegNum) (s : Rm)
  | cvtps2pi (d : RegNum) (s : Rm)
  | cvttps2pi (d : RegNum) (s : Rm)
  | cvtsi2ss (d : RegNum) (s : Rm)
  | cvtss2si (d : RegNum) (s : Rm)
  | cvttss2si (d : RegNum) (s : Rm)
  | cvtpi2pd (d : RegNum) (s : Rm)
  | cvtpd2pi (d : RegNum) (s : Rm)
  | cvttpd2pi (d : RegNum) (s : Rm)
  | cvtsi2sd (d : RegNum) (s : Rm)
  | cvtsd2si (d : RegNum) (s : Rm)
  | cvttsd2si (d : RegNum) (s : Rm)
  | cvtpd2ps (d : RegNum) (s : Rm)
  | cvtps2pd (d : RegNum) (s : Rm)
  | cvtsd2ss (d : RegNum) (s : Rm)
  | cvtss2sd (d : RegNum) (s : Rm)
  | cvtpd2dq (d : RegNum) (s : Rm)
  | cvttpd2dq (d : RegNum) (s : Rm)
  | cvtdq2pd (d : RegNum) (s : Rm)
  | cvtps2dq (d : RegNum) (s : Rm)
  | cvttps2dq (d : RegNum) (s : Rm)
  | cvtdq2ps (d : RegNum) (s : Rm)
  | ldmxcsr (m : MemRef)
  | stmxcsr (m : MemRef)
  -- SSE3 (49)
  | addsubpd (d : RegNum) (s : Rm)
  | addsubps (d : RegNum) (s : Rm)
  | haddpd (d : RegNum) (s : Rm)
  | haddps (d : RegNum) (s : Rm)
  | hsubpd (d : RegNum) (s : Rm)
  | hsubps (d : RegNum) (s : Rm)
  | movddup (d : RegNum) (s : Rm)
  | movshdup (d : RegNum) (s : Rm)
  | movsldup (d : RegNum) (s : Rm)
  | lddqu (d : RegNum) (m : MemRef)
  deriving DecidableEq, Repr

end Sys2Proof
end

