-- ==== Sys2Proof/WellFormed.lean ====
section
/-! DEFINITION. Which instruction terms stand for an encoding (wf), and which of those an operand-size and an
address-size attribute can decode (fits): 30_encoding R306, R323, R324, R341 to R347, R380. -/
namespace Sys2Proof

/-- The memory forms ModR/M and SIB can encode: the register field of each form leaves out the codes that mean another
form (30_encoding R341 to R343). -/
def MemRef.wf : MemRef → Bool
  | .base16 rm d => rm != 6 || d != .none
  | .abs16 _ => true
  | .base32 rm d => rm != 4 && (rm != 5 || d != .none)
  | .abs32 _ => true
  | .sib _ _ base d => base != 5 || d != .none
  | .sibAbs _ _ _ => true

def Rm.wf : Rm → Bool
  | .reg _ => true
  | .mem m => m.wf

/-- An 8-bit immediate. -/
def Imm.isByte : Imm → Bool
  | .i8 _ => true
  | _ => false

/-- Group 1: the immediate is one byte exactly when w = 0 or s = 1 (30_encoding R323). -/
def AluForm.wf : AluForm → Bool
  | .rmReg _ x _ => x.wf
  | .regRm _ _ x => x.wf
  | .accImm _ => true
  | .rmImm s w x imm => x.wf && (imm.isByte == (s || !w))

def IncForm.wf : IncForm → Bool
  | .rm _ x => x.wf
  | .reg _ => true

def TestForm.wf : TestForm → Bool
  | .rmReg _ x _ => x.wf
  | .rmImm x _ => x.wf
  | .accImm _ => true

def ShiftForm.wf : ShiftForm → Bool
  | .one _ x => x.wf
  | .cl _ x => x.wf
  | .imm _ x _ => x.wf

def DblForm.wf : DblForm → Bool
  | .imm x _ _ => x.wf
  | .cl x _ => x.wf

def BitForm.wf : BitForm → Bool
  | .imm x _ => x.wf
  | .reg x _ => x.wf

def MovForm.wf : MovForm → Bool
  | .rmReg _ x _ => x.wf
  | .regRm _ _ x => x.wf
  | .rmImm x _ => x.wf
  | .regImm _ _ => true

/-- 90H is NOP, not XCHG eAX,eAX (30_encoding R420). -/
def XchgForm.wf : XchgForm → Bool
  | .rmReg _ x _ => x.wf
  | .acc r => r != 0

def PushForm.wf : PushForm → Bool
  | .rm x => x.wf
  | _ => true

/-- No POP CS (30_encoding R324). -/
def PopForm.wf : PopForm → Bool
  | .rm x => x.wf
  | .reg _ => true
  | .seg sr => sr != .cs

def NearForm.wf : NearForm → Bool
  | .rel _ => true
  | .rm x => x.wf

/-- CALL has no 8-bit displacement (42 R740). -/
def NearForm.wfCall : NearForm → Bool
  | .rel d => !d.isByte
  | .rm x => x.wf

def FarForm.wf : FarForm → Bool
  | .ptr _ => true
  | .mem m => m.wf

def FArith.wf : FArith → Bool
  | .m32 m => m.wf
  | .m64 m => m.wf
  | _ => true

def FReal.wf : FReal → Bool
  | .m32 m => m.wf
  | .m64 m => m.wf
  | .st _ => true

def FReal80.wf : FReal80 → Bool
  | .m32 m => m.wf
  | .m64 m => m.wf
  | .m80 m => m.wf
  | .st _ => true

def FInt.wf : FInt → Bool
  | .m16 m => m.wf
  | .m32 m => m.wf

def FInt64.wf : FInt64 → Bool
  | .m16 m => m.wf
  | .m32 m => m.wf
  | .m64 m => m.wf

def StswForm.wf : StswForm → Bool
  | .mem m => m.wf
  | .ax => true

def Pk.wf : Pk → Bool
  | .mm _ s => s.wf
  | .xmm _ s => s.wf

def PkShift.wf : PkShift → Bool
  | .by o => o.wf
  | _ => true

def MovdForm.wf : MovdForm → Bool
  | .toMm _ s => s.wf
  | .fromMm d _ => d.wf
  | .toXmm _ s => s.wf
  | .fromXmm d _ => d.wf

def MovqForm.wf : MovqForm → Bool
  | .toMm _ s => s.wf
  | .fromMm d _ => d.wf
  | .toXmm _ s => s.wf
  | .fromXmm d _ => d.wf

def XMove.wf : XMove → Bool
  | .load _ s => s.wf
  | .store d _ => d.wf

def XHalf.wf : XHalf → Bool
  | .load _ s => s.wf
  | .store d _ => d.wf

/-! Sizes: the address form must match the address-size attribute and a full-size immediate the operand-size
attribute (30_encoding R306, R347). -/

def MemRef.fits (as32 : Bool) : MemRef → Bool
  | .base16 _ _ => !as32
  | .abs16 _ => !as32
  | _ => as32

def Rm.fits (as32 : Bool) : Rm → Bool
  | .reg _ => true
  | .mem m => m.fits as32

def Imm.fits (os32 : Bool) : Imm → Bool
  | .i8 _ => true
  | .i16 _ => !os32
  | .i32 _ => os32

def MOffs.fits (as32 : Bool) : MOffs → Bool
  | .o16 _ => !as32
  | .o32 _ => as32

def FarPtr.fits (os32 : Bool) : FarPtr → Bool
  | .p16 _ _ => !os32
  | .p32 _ _ => os32

def AluForm.fits (os32 as32 : Bool) : AluForm → Bool
  | .rmReg _ x _ => x.fits as32
  | .regRm _ _ x => x.fits as32
  | .accImm x => x.fits os32
  | .rmImm _ _ x y => x.fits as32 && y.fits os32

def IncForm.fits (_os32 as32 : Bool) : IncForm → Bool
  | .rm _ x => x.fits as32
  | .reg _ => true

def TestForm.fits (os32 as32 : Bool) : TestForm → Bool
  | .rmReg _ x _ => x.fits as32
  | .rmImm x y => x.fits as32 && y.fits os32
  | .accImm x => x.fits os32

def ShiftForm.fits (_os32 as32 : Bool) : ShiftForm → Bool
  | .one _ x => x.fits as32
  | .cl _ x => x.fits as32
  | .imm _ x _ => x.fits as32

def DblForm.fits (_os32 as32 : Bool) : DblForm → Bool
  | .imm x _ _ => x.fits as32
  | .cl x _ => x.fits as32

def BitForm.fits (_os32 as32 : Bool) : BitForm → Bool
  | .imm x _ => x.fits as32
  | .reg x _ => x.fits as32

def MovForm.fits (os32 as32 : Bool) : MovForm → Bool
  | .rmReg _ x _ => x.fits as32
  | .regRm _ _ x => x.fits as32
  | .rmImm x y => x.fits as32 && y.fits os32
  | .regImm _ x => x.fits os32

def XchgForm.fits (_os32 as32 : Bool) : XchgForm → Bool
  | .rmReg _ x _ => x.fits as32
  | .acc _ => true

def PushForm.fits (os32 as32 : Bool) : PushForm → Bool
  | .rm x => x.fits as32
  | .reg _ => true
  | .imm x => x.fits os32
  | .seg _ => true

def PopForm.fits (_os32 as32 : Bool) : PopForm → Bool
  | .rm x => x.fits as32
  | .reg _ => true
  | .seg _ => true

def NearForm.fits (os32 as32 : Bool) : NearForm → Bool
  | .rel d => d.fits os32
  | .rm x => x.fits as32

def FarForm.fits (os32 as32 : Bool) : FarForm → Bool
  | .ptr p => p.fits os32
  | .mem m => m.fits as32

def FArith.fits (_os32 as32 : Bool) : FArith → Bool
  | .m32 m => m.fits as32
  | .m64 m => m.fits as32
  | .st0 _ => true
  | .sti _ => true

def FReal.fits (_os32 as32 : Bool) : FReal → Bool
  | .m32 m => m.fits as32
  | .m64 m => m.fits as32
  | .st _ => true

def FReal80.fits (_os32 as32 : Bool) : FReal80 → Bool
  | .m32 m => m.fits as32
  | .m64 m => m.fits as32
  | .m80 m => m.fits as32
  | .st _ => true

def FInt.fits (_os32 as32 : Bool) : FInt → Bool
  | .m16 m => m.fits as32
  | .m32 m => m.fits as32

def FInt64.fits (_os32 as32 : Bool) : FInt64 → Bool
  | .m16 m => m.fits as32
  | .m32 m => m.fits as32
  | .m64 m => m.fits as32

def StswForm.fits (_os32 as32 : Bool) : StswForm → Bool
  | .mem m => m.fits as32
  | .ax => true

def Pk.fits (_os32 as32 : Bool) : Pk → Bool
  | .mm _ s => s.fits as32
  | .xmm _ s => s.fits as32

def PkShift.fits (os32 as32 : Bool) : PkShift → Bool
  | .by o => o.fits os32 as32
  | .immMm _ _ => true
  | .immXmm _ _ => true

def MovdForm.fits (_os32 as32 : Bool) : MovdForm → Bool
  | .toMm _ s => s.fits as32
  | .fromMm d _ => d.fits as32
  | .toXmm _ s => s.fits as32
  | .fromXmm d _ => d.fits as32

def MovqForm.fits (_os32 as32 : Bool) : MovqForm → Bool
  | .toMm _ s => s.fits as32
  | .fromMm d _ => d.fits as32
  | .toXmm _ s => s.fits as32
  | .fromXmm d _ => d.fits as32

def XMove.fits (_os32 as32 : Bool) : XMove → Bool
  | .load _ s => s.fits as32
  | .store d _ => d.fits as32

def XHalf.fits (_os32 as32 : Bool) : XHalf → Bool
  | .load _ s => s.fits as32
  | .store d _ => d.fits as32

/-- The instruction terms that an encoding of the opcode table stands for. -/
def Instr.wf : Instr → Bool
  | .lock | .repne | .rep | .csOverride | .ssOverride | .dsOverride | .esOverride | .fsOverride | .gsOverride
  | .opSizeOverride | .addrSizeOverride => true
  | .add f => f.wf
  | .or f => f.wf
  | .adc f => f.wf
  | .sbb f => f.wf
  | .and f => f.wf
  | .sub f => f.wf
  | .xor f => f.wf
  | .cmp f => f.wf
  | .inc f => f.wf
  | .dec f => f.wf
  | .not _ rm => rm.wf
  | .neg _ rm => rm.wf
  | .mul _ rm => rm.wf
  | .div _ rm => rm.wf
  | .idiv _ rm => rm.wf
  | .test f => f.wf
  | .imulAcc _ rm => rm.wf
  | .imulRm _ rm => rm.wf
  | .imulImm _ rm _ => rm.wf
  | .rol f => f.wf
  | .ror f => f.wf
  | .rcl f => f.wf
  | .rcr f => f.wf
  | .shl f => f.wf
  | .shr f => f.wf
  | .sar f => f.wf
  | .shld f => f.wf
  | .shrd f => f.wf
  | .bt f => f.wf
  | .bts f => f.wf
  | .btr f => f.wf
  | .btc f => f.wf
  | .bsf _ rm => rm.wf
  | .bsr _ rm => rm.wf
  | .bswap _ => true
  | .setcc _ rm => rm.wf
  | .xadd _ rm _ => rm.wf
  | .cmpxchg _ rm _ => rm.wf
  | .cmpxchg8b m => m.wf
  | .clc | .stc | .cmc | .cld | .std | .lahf | .sahf | .aaa | .aas | .daa | .das | .aam _ | .aad _ => true
  | .mov f => f.wf
  | .movFromOffs _ _ => true
  | .movToOffs _ _ => true
  | .movToSeg sr rm => rm.wf && sr != .cs
  | .movFromSeg rm _ => rm.wf
  | .movsx _ _ rm => rm.wf
  | .movzx _ _ rm => rm.wf
  | .xchg f => f.wf
  | .nop => true
  | .lea _ m => m.wf
  | .cmovcc _ _ rm => rm.wf
  | .cbw | .cwd | .xlat => true
  | .push f => f.wf
  | .pop f => f.wf
  | .pusha | .popa | .pushf | .popf | .enter _ _ | .leave => true
  | .lds _ m => m.wf
  | .les _ m => m.wf
  | .lss _ m => m.wf
  | .lfs _ m => m.wf
  | .lgs _ m => m.wf
  | .movs _ | .cmps _ | .stos _ | .lods _ | .scas _ | .ins _ | .outs _ | .inPort _ | .outPort _ => true
  | .jmp f => f.wf
  | .jmpFar f => f.wf
  | .jcc _ _ | .jcxz _ | .loop _ | .loope _ | .loopne _ => true
  | .call f => f.wfCall
  | .callFar f => f.wf
  | .ret _ | .retf _ | .int _ | .int3 | .into | .iret => true
  | .bound _ m => m.wf
  | .sysenter | .sysexit | .movToCr _ _ | .movFromCr _ _ | .movToDr _ _ | .movFromDr _ _ | .movTest _ _ _ => true
  | .sgdt m => m.wf
  | .sidt m => m.wf
  | .lgdt m => m.wf
  | .lidt m => m.wf
  | .invlpg m => m.wf
  | .smsw rm => rm.wf
  | .lmsw rm => rm.wf
  | .sldt rm => rm.wf
  | .str rm => rm.wf
  | .lldt rm => rm.wf
  | .ltr rm => rm.wf
  | .verr rm => rm.wf
  | .verw rm => rm.wf
  | .lar _ rm => rm.wf
  | .lsl _ rm => rm.wf
  | .arpl rm _ => rm.wf
  | .monitor | .mwait | .clts | .invd | .wbinvd | .ud2 => true
  | .group10 | .wrmsr | .rdtsc | .rdmsr | .rdpmc | .cpuid => true
  | .rsm | .cli | .sti | .hlt => true
  | .fadd f => f.wf
  | .fmul f => f.wf
  | .fsub f => f.wf
  | .fsubr f => f.wf
  | .fdiv f => f.wf
  | .fdivr f => f.wf
  | .fcom f => f.wf
  | .fcomp f => f.wf
  | .fiadd f => f.wf
  | .fimul f => f.wf
  | .ficom f => f.wf
  | .ficomp f => f.wf
  | .fisub f => f.wf
  | .fisubr f => f.wf
  | .fidiv f => f.wf
  | .fidivr f => f.wf
  | .fld f => f.wf
  | .fst f => f.wf
  | .fstp f => f.wf
  | .fild f => f.wf
  | .fist f => f.wf
  | .fistp f => f.wf
  | .fisttp f => f.wf
  | .fbld m => m.wf
  | .fbstp m => m.wf
  | .fldenv m => m.wf
  | .fldcw m => m.wf
  | .fnstenv m => m.wf
  | .fnstcw m => m.wf
  | .frstor m => m.wf
  | .fnsave m => m.wf
  | .fnstsw f => f.wf
  | .fcompp | .faddp _ | .fucompp | .fmulp _ | .fnop | .fchs | .fsubp _ | .fabs | .fsubrp _ | .ftst | .fxam | .fdivp _
  | .fld1 | .fdivrp _ | .fldl2t | .fldl2e | .fxch _ | .fldpi | .ffree _ | .fldlg2 | .fldln2 | .fucom _ | .fldz | .fucomp _
  | .f2xm1 | .fyl2x | .fucomi _ | .fptan | .fcomi _ | .fpatan | .fxtract | .fucomip _ | .fprem1 | .fcomip _ | .fdecstp
  | .fincstp | .fcmovb _ | .fprem | .fcmove _ | .fyl2xp1 | .fsqrt | .fcmovbe _ | .fsincos | .fcmovu _ | .frndint | .fscale
  | .fcmovnb _ | .fsin | .fcmovne _ | .fcos | .fnclex | .fcmovnbe _ | .fninit | .fcmovnu _ | .fwait => true
  | .fxsave m => m.wf
  | .fxrstor m => m.wf
  | .emms => true
  | .movd f => f.wf
  | .movq f => f.wf
  | .packsswb o => o.wf
  | .packssdw o => o.wf
  | .packuswb o => o.wf
  | .punpckhbw o => o.wf
  | .punpckhwd o => o.wf
  | .punpckhdq o => o.wf
  | .punpcklbw o => o.wf
  | .punpcklwd o => o.wf
  | .punpckldq o => o.wf
  | .paddb o => o.wf
  | .paddw o => o.wf
  | .paddd o => o.wf
  | .paddq o => o.wf
  | .paddsb o => o.wf
  | .paddsw o => o.wf
  | .paddusb o => o.wf
  | .paddusw o => o.wf
  | .psubb o => o.wf
  | .psubw o => o.wf
  | .psubd o => o.wf
  | .psubq o => o.wf
  | .psubsb o => o.wf
  | .psubsw o => o.wf
  | .psubusb o => o.wf
  | .psubusw o => o.wf
  | .pmaddwd o => o.wf
  | .pmulhuw o => o.wf
  | .pmulhw o => o.wf
  | .pmullw o => o.wf
  | .pmuludq o => o.wf
  | .pcmpeqb o => o.wf
  | .pcmpeqw o => o.wf
  | .pcmpeqd o => o.wf
  | .pcmpgtb o => o.wf
  | .pcmpgtw o => o.wf
  | .pcmpgtd o => o.wf
  | .pand o => o.wf
  | .pandn o => o.wf
  | .por o => o.wf
  | .pxor o => o.wf
  | .pavgb o => o.wf
  | .pavgw o => o.wf
  | .pmaxsw o => o.wf
  | .pmaxub o => o.wf
  | .pminsw o => o.wf
  | .pminub o => o.wf
  | .psadbw o => o.wf
  | .psllw o => o.wf
  | .pslld o => o.wf
  | .psllq o => o.wf
  | .psraw o => o.wf
  | .psrad o => o.wf
  | .psrlw o => o.wf
  | .psrld o => o.wf
  | .psrlq o => o.wf
  | .pslldq _ _ => true
  | .psrldq _ _ => true
  | .punpckhqdq _ s => s.wf
  | .punpcklqdq _ s => s.wf
  | .pextrw _ _ => true
  | .pinsrw o _ => o.wf
  | .pmovmskb _ => true
  | .pshufw _ s _ => s.wf
  | .pshufd _ s _ => s.wf
  | .pshufhw _ s _ => s.wf
  | .pshuflw _ s _ => s.wf
  | .maskmovq _ _ => true
  | .maskmovdqu _ _ => true
  | .movntq m _ => m.wf
  | .movntdq m _ => m.wf
  | .movntps m _ => m.wf
  | .movntpd m _ => m.wf
  | .movnti m _ => m.wf
  | .prefetchnta m => m.wf
  | .prefetcht0 m => m.wf
  | .prefetcht1 m => m.wf
  | .prefetcht2 m => m.wf
  | .clflush m => m.wf
  | .sfence | .lfence | .mfence | .pause => true
  | .movdqa f => f.wf
  | .movdqu f => f.wf
  | .movq2dq _ _ => true
  | .movdq2q _ _ => true
  | .movaps f => f.wf
  | .movups f => f.wf
  | .movapd f => f.wf
  | .movupd f => f.wf
  | .movss f => f.wf
  | .movsd f => f.wf
  | .movlps f => f.wf
  | .movhps f => f.wf
  | .movlpd f => f.wf
  | .movhpd f => f.wf
  | .movhlps _ _ | .movlhps _ _ | .movmskps _ _ | .movmskpd _ _ => true
  | .addps _ s => s.wf
  | .addpd _ s => s.wf
  | .addss _ s => s.wf
  | .addsd _ s => s.wf
  | .subps _ s => s.wf
  | .subpd _ s => s.wf
  | .subss _ s => s.wf
  | .subsd _ s => s.wf
  | .mulps _ s => s.wf
  | .mulpd _ s => s.wf
  | .mulss _ s => s.wf
  | .mulsd _ s => s.wf
  | .divps _ s => s.wf
  | .divpd _ s => s.wf
  | .divss _ s => s.wf
  | .divsd _ s => s.wf
  | .sqrtps _ s => s.wf
  | .sqrtpd _ s => s.wf
  | .sqrtss _ s => s.wf
  | .sqrtsd _ s => s.wf
  | .maxps _ s => s.wf
  | .maxpd _ s => s.wf
  | .maxss _ s => s.wf
  | .maxsd _ s => s.wf
  | .minps _ s => s.wf
  | .minpd _ s => s.wf
  | .minss _ s => s.wf
  | .minsd _ s => s.wf
  | .rcpps _ s => s.wf
  | .rcpss _ s => s.wf
  | .rsqrtps _ s => s.wf
  | .rsqrtss _ s => s.wf
  | .andps _ s => s.wf
  | .andpd _ s => s.wf
  | .andnps _ s => s.wf
  | .andnpd _ s => s.wf
  | .orps _ s => s.wf
  | .orpd _ s => s.wf
  | .xorps _ s => s.wf
  | .xorpd _ s => s.wf
  | .unpckhps _ s => s.wf
  | .unpckhpd _ s => s.wf
  | .unpcklps _ s => s.wf
  | .unpcklpd _ s => s.wf
  | .comiss _ s => s.wf
  | .comisd _ s => s.wf
  | .ucomiss _ s => s.wf
  | .ucomisd _ s => s.wf
  | .cmpps _ s _ => s.wf
  | .cmppd _ s _ => s.wf
  | .cmpss _ s _ => s.wf
  | .cmpsd _ s _ => s.wf
  | .shufps _ s _ => s.wf
  | .shufpd _ s _ => s.wf
  | .cvtpi2ps _ s => s.wf
  | .cvtps2pi _ s => s.wf
  | .cvttps2pi _ s => s.wf
  | .cvtsi2ss _ s => s.wf
  | .cvtss2si _ s => s.wf
  | .cvttss2si _ s => s.wf
  | .cvtpi2pd _ s => s.wf
  | .cvtpd2pi _ s => s.wf
  | .cvttpd2pi _ s => s.wf
  | .cvtsi2sd _ s => s.wf
  | .cvtsd2si _ s => s.wf
  | .cvttsd2si _ s => s.wf
  | .cvtpd2ps _ s => s.wf
  | .cvtps2pd _ s => s.wf
  | .cvtsd2ss _ s => s.wf
  | .cvtss2sd _ s => s.wf
  | .cvtpd2dq _ s => s.wf
  | .cvttpd2dq _ s => s.wf
  | .cvtdq2pd _ s => s.wf
  | .cvtps2dq _ s => s.wf
  | .cvttps2dq _ s => s.wf
  | .cvtdq2ps _ s => s.wf
  | .ldmxcsr m => m.wf
  | .stmxcsr m => m.wf
  | .addsubpd _ s => s.wf
  | .addsubps _ s => s.wf
  | .haddpd _ s => s.wf
  | .haddps _ s => s.wf
  | .hsubpd _ s => s.wf
  | .hsubps _ s => s.wf
  | .movddup _ s => s.wf
  | .movshdup _ s => s.wf
  | .movsldup _ s => s.wf
  | .lddqu _ m => m.wf

/-- The operand-size and address-size attributes decode this term as it stands. -/
def Instr.fits (os32 as32 : Bool) : Instr → Bool
  | .lock | .repne | .rep | .csOverride | .ssOverride | .dsOverride | .esOverride | .fsOverride | .gsOverride
  | .opSizeOverride | .addrSizeOverride => true
  | .add f => f.fits os32 as32
  | .or f => f.fits os32 as32
  | .adc f => f.fits os32 as32
  | .sbb f => f.fits os32 as32
  | .and f => f.fits os32 as32
  | .sub f => f.fits os32 as32
  | .xor f => f.fits os32 as32
  | .cmp f => f.fits os32 as32
  | .inc f => f.fits os32 as32
  | .dec f => f.fits os32 as32
  | .not _ rm => rm.fits as32
  | .neg _ rm => rm.fits as32
  | .mul _ rm => rm.fits as32
  | .div _ rm => rm.fits as32
  | .idiv _ rm => rm.fits as32
  | .test f => f.fits os32 as32
  | .imulAcc _ rm => rm.fits as32
  | .imulRm _ rm => rm.fits as32
  | .imulImm _ rm imm => rm.fits as32 && imm.fits os32
  | .rol f => f.fits os32 as32
  | .ror f => f.fits os32 as32
  | .rcl f => f.fits os32 as32
  | .rcr f => f.fits os32 as32
  | .shl f => f.fits os32 as32
  | .shr f => f.fits os32 as32
  | .sar f => f.fits os32 as32
  | .shld f => f.fits os32 as32
  | .shrd f => f.fits os32 as32
  | .bt f => f.fits os32 as32
  | .bts f => f.fits os32 as32
  | .btr f => f.fits os32 as32
  | .btc f => f.fits os32 as32
  | .bsf _ rm => rm.fits as32
  | .bsr _ rm => rm.fits as32
  | .bswap _ => true
  | .setcc _ rm => rm.fits as32
  | .xadd _ rm _ => rm.fits as32
  | .cmpxchg _ rm _ => rm.fits as32
  | .cmpxchg8b m => m.fits as32
  | .clc | .stc | .cmc | .cld | .std | .lahf | .sahf | .aaa | .aas | .daa | .das | .aam _ | .aad _ => true
  | .mov f => f.fits os32 as32
  | .movFromOffs _ o => o.fits as32
  | .movToOffs _ o => o.fits as32
  | .movToSeg _ rm => rm.fits as32
  | .movFromSeg rm _ => rm.fits as32
  | .movsx _ _ rm => rm.fits as32
  | .movzx _ _ rm => rm.fits as32
  | .xchg f => f.fits os32 as32
  | .nop => true
  | .lea _ m => m.fits as32
  | .cmovcc _ _ rm => rm.fits as32
  | .cbw | .cwd | .xlat => true
  | .push f => f.fits os32 as32
  | .pop f => f.fits os32 as32
  | .pusha | .popa | .pushf | .popf | .enter _ _ | .leave => true
  | .lds _ m => m.fits as32
  | .les _ m => m.fits as32
  | .lss _ m => m.fits as32
  | .lfs _ m => m.fits as32
  | .lgs _ m => m.fits as32
  | .movs _ | .cmps _ | .stos _ | .lods _ | .scas _ | .ins _ | .outs _ | .inPort _ | .outPort _ => true
  | .jmp f => f.fits os32 as32
  | .jmpFar f => f.fits os32 as32
  | .jcc _ d => d.fits os32
  | .jcxz _ | .loop _ | .loope _ | .loopne _ => true
  | .call f => f.fits os32 as32
  | .callFar f => f.fits os32 as32
  | .ret _ | .retf _ | .int _ | .int3 | .into | .iret => true
  | .bound _ m => m.fits as32
  | .sysenter | .sysexit | .movToCr _ _ | .movFromCr _ _ | .movToDr _ _ | .movFromDr _ _ | .movTest _ _ _ => true
  | .sgdt m => m.fits as32
  | .sidt m => m.fits as32
  | .lgdt m => m.fits as32
  | .lidt m => m.fits as32
  | .invlpg m => m.fits as32
  | .smsw rm => rm.fits as32
  | .lmsw rm => rm.fits as32
  | .sldt rm => rm.fits as32
  | .str rm => rm.fits as32
  | .lldt rm => rm.fits as32
  | .ltr rm => rm.fits as32
  | .verr rm => rm.fits as32
  | .verw rm => rm.fits as32
  | .lar _ rm => rm.fits as32
  | .lsl _ rm => rm.fits as32
  | .arpl rm _ => rm.fits as32
  | .monitor | .mwait | .clts | .invd | .wbinvd | .ud2 => true
  | .group10 | .wrmsr | .rdtsc | .rdmsr | .rdpmc | .cpuid => true
  | .rsm | .cli | .sti | .hlt => true
  | .fadd f => f.fits os32 as32
  | .fmul f => f.fits os32 as32
  | .fsub f => f.fits os32 as32
  | .fsubr f => f.fits os32 as32
  | .fdiv f => f.fits os32 as32
  | .fdivr f => f.fits os32 as32
  | .fcom f => f.fits os32 as32
  | .fcomp f => f.fits os32 as32
  | .fiadd f => f.fits os32 as32
  | .fimul f => f.fits os32 as32
  | .ficom f => f.fits os32 as32
  | .ficomp f => f.fits os32 as32
  | .fisub f => f.fits os32 as32
  | .fisubr f => f.fits os32 as32
  | .fidiv f => f.fits os32 as32
  | .fidivr f => f.fits os32 as32
  | .fld f => f.fits os32 as32
  | .fst f => f.fits os32 as32
  | .fstp f => f.fits os32 as32
  | .fild f => f.fits os32 as32
  | .fist f => f.fits os32 as32
  | .fistp f => f.fits os32 as32
  | .fisttp f => f.fits os32 as32
  | .fbld m => m.fits as32
  | .fbstp m => m.fits as32
  | .fldenv m => m.fits as32
  | .fldcw m => m.fits as32
  | .fnstenv m => m.fits as32
  | .fnstcw m => m.fits as32
  | .frstor m => m.fits as32
  | .fnsave m => m.fits as32
  | .fnstsw f => f.fits os32 as32
  | .fcompp | .faddp _ | .fucompp | .fmulp _ | .fnop | .fchs | .fsubp _ | .fabs | .fsubrp _ | .ftst | .fxam | .fdivp _
  | .fld1 | .fdivrp _ | .fldl2t | .fldl2e | .fxch _ | .fldpi | .ffree _ | .fldlg2 | .fldln2 | .fucom _ | .fldz | .fucomp _
  | .f2xm1 | .fyl2x | .fucomi _ | .fptan | .fcomi _ | .fpatan | .fxtract | .fucomip _ | .fprem1 | .fcomip _ | .fdecstp
  | .fincstp | .fcmovb _ | .fprem | .fcmove _ | .fyl2xp1 | .fsqrt | .fcmovbe _ | .fsincos | .fcmovu _ | .frndint | .fscale
  | .fcmovnb _ | .fsin | .fcmovne _ | .fcos | .fnclex | .fcmovnbe _ | .fninit | .fcmovnu _ | .fwait => true
  | .fxsave m => m.fits as32
  | .fxrstor m => m.fits as32
  | .emms => true
  | .movd f => f.fits os32 as32
  | .movq f => f.fits os32 as32
  | .packsswb o => o.fits os32 as32
  | .packssdw o => o.fits os32 as32
  | .packuswb o => o.fits os32 as32
  | .punpckhbw o => o.fits os32 as32
  | .punpckhwd o => o.fits os32 as32
  | .punpckhdq o => o.fits os32 as32
  | .punpcklbw o => o.fits os32 as32
  | .punpcklwd o => o.fits os32 as32
  | .punpckldq o => o.fits os32 as32
  | .paddb o => o.fits os32 as32
  | .paddw o => o.fits os32 as32
  | .paddd o => o.fits os32 as32
  | .paddq o => o.fits os32 as32
  | .paddsb o => o.fits os32 as32
  | .paddsw o => o.fits os32 as32
  | .paddusb o => o.fits os32 as32
  | .paddusw o => o.fits os32 as32
  | .psubb o => o.fits os32 as32
  | .psubw o => o.fits os32 as32
  | .psubd o => o.fits os32 as32
  | .psubq o => o.fits os32 as32
  | .psubsb o => o.fits os32 as32
  | .psubsw o => o.fits os32 as32
  | .psubusb o => o.fits os32 as32
  | .psubusw o => o.fits os32 as32
  | .pmaddwd o => o.fits os32 as32
  | .pmulhuw o => o.fits os32 as32
  | .pmulhw o => o.fits os32 as32
  | .pmullw o => o.fits os32 as32
  | .pmuludq o => o.fits os32 as32
  | .pcmpeqb o => o.fits os32 as32
  | .pcmpeqw o => o.fits os32 as32
  | .pcmpeqd o => o.fits os32 as32
  | .pcmpgtb o => o.fits os32 as32
  | .pcmpgtw o => o.fits os32 as32
  | .pcmpgtd o => o.fits os32 as32
  | .pand o => o.fits os32 as32
  | .pandn o => o.fits os32 as32
  | .por o => o.fits os32 as32
  | .pxor o => o.fits os32 as32
  | .pavgb o => o.fits os32 as32
  | .pavgw o => o.fits os32 as32
  | .pmaxsw o => o.fits os32 as32
  | .pmaxub o => o.fits os32 as32
  | .pminsw o => o.fits os32 as32
  | .pminub o => o.fits os32 as32
  | .psadbw o => o.fits os32 as32
  | .psllw o => o.fits os32 as32
  | .pslld o => o.fits os32 as32
  | .psllq o => o.fits os32 as32
  | .psraw o => o.fits os32 as32
  | .psrad o => o.fits os32 as32
  | .psrlw o => o.fits os32 as32
  | .psrld o => o.fits os32 as32
  | .psrlq o => o.fits os32 as32
  | .pslldq _ _ => true
  | .psrldq _ _ => true
  | .punpckhqdq _ s => s.fits as32
  | .punpcklqdq _ s => s.fits as32
  | .pextrw _ _ => true
  | .pinsrw o _ => o.fits os32 as32
  | .pmovmskb _ => true
  | .pshufw _ s _ => s.fits as32
  | .pshufd _ s _ => s.fits as32
  | .pshufhw _ s _ => s.fits as32
  | .pshuflw _ s _ => s.fits as32
  | .maskmovq _ _ => true
  | .maskmovdqu _ _ => true
  | .movntq m _ => m.fits as32
  | .movntdq m _ => m.fits as32
  | .movntps m _ => m.fits as32
  | .movntpd m _ => m.fits as32
  | .movnti m _ => m.fits as32
  | .prefetchnta m => m.fits as32
  | .prefetcht0 m => m.fits as32
  | .prefetcht1 m => m.fits as32
  | .prefetcht2 m => m.fits as32
  | .clflush m => m.fits as32
  | .sfence | .lfence | .mfence | .pause => true
  | .movdqa f => f.fits os32 as32
  | .movdqu f => f.fits os32 as32
  | .movq2dq _ _ => true
  | .movdq2q _ _ => true
  | .movaps f => f.fits os32 as32
  | .movups f => f.fits os32 as32
  | .movapd f => f.fits os32 as32
  | .movupd f => f.fits os32 as32
  | .movss f => f.fits os32 as32
  | .movsd f => f.fits os32 as32
  | .movlps f => f.fits os32 as32
  | .movhps f => f.fits os32 as32
  | .movlpd f => f.fits os32 as32
  | .movhpd f => f.fits os32 as32
  | .movhlps _ _ | .movlhps _ _ | .movmskps _ _ | .movmskpd _ _ => true
  | .addps _ s => s.fits as32
  | .addpd _ s => s.fits as32
  | .addss _ s => s.fits as32
  | .addsd _ s => s.fits as32
  | .subps _ s => s.fits as32
  | .subpd _ s => s.fits as32
  | .subss _ s => s.fits as32
  | .subsd _ s => s.fits as32
  | .mulps _ s => s.fits as32
  | .mulpd _ s => s.fits as32
  | .mulss _ s => s.fits as32
  | .mulsd _ s => s.fits as32
  | .divps _ s => s.fits as32
  | .divpd _ s => s.fits as32
  | .divss _ s => s.fits as32
  | .divsd _ s => s.fits as32
  | .sqrtps _ s => s.fits as32
  | .sqrtpd _ s => s.fits as32
  | .sqrtss _ s => s.fits as32
  | .sqrtsd _ s => s.fits as32
  | .maxps _ s => s.fits as32
  | .maxpd _ s => s.fits as32
  | .maxss _ s => s.fits as32
  | .maxsd _ s => s.fits as32
  | .minps _ s => s.fits as32
  | .minpd _ s => s.fits as32
  | .minss _ s => s.fits as32
  | .minsd _ s => s.fits as32
  | .rcpps _ s => s.fits as32
  | .rcpss _ s => s.fits as32
  | .rsqrtps _ s => s.fits as32
  | .rsqrtss _ s => s.fits as32
  | .andps _ s => s.fits as32
  | .andpd _ s => s.fits as32
  | .andnps _ s => s.fits as32
  | .andnpd _ s => s.fits as32
  | .orps _ s => s.fits as32
  | .orpd _ s => s.fits as32
  | .xorps _ s => s.fits as32
  | .xorpd _ s => s.fits as32
  | .unpckhps _ s => s.fits as32
  | .unpckhpd _ s => s.fits as32
  | .unpcklps _ s => s.fits as32
  | .unpcklpd _ s => s.fits as32
  | .comiss _ s => s.fits as32
  | .comisd _ s => s.fits as32
  | .ucomiss _ s => s.fits as32
  | .ucomisd _ s => s.fits as32
  | .cmpps _ s _ => s.fits as32
  | .cmppd _ s _ => s.fits as32
  | .cmpss _ s _ => s.fits as32
  | .cmpsd _ s _ => s.fits as32
  | .shufps _ s _ => s.fits as32
  | .shufpd _ s _ => s.fits as32
  | .cvtpi2ps _ s => s.fits as32
  | .cvtps2pi _ s => s.fits as32
  | .cvttps2pi _ s => s.fits as32
  | .cvtsi2ss _ s => s.fits as32
  | .cvtss2si _ s => s.fits as32
  | .cvttss2si _ s => s.fits as32
  | .cvtpi2pd _ s => s.fits as32
  | .cvtpd2pi _ s => s.fits as32
  | .cvttpd2pi _ s => s.fits as32
  | .cvtsi2sd _ s => s.fits as32
  | .cvtsd2si _ s => s.fits as32
  | .cvttsd2si _ s => s.fits as32
  | .cvtpd2ps _ s => s.fits as32
  | .cvtps2pd _ s => s.fits as32
  | .cvtsd2ss _ s => s.fits as32
  | .cvtss2sd _ s => s.fits as32
  | .cvtpd2dq _ s => s.fits as32
  | .cvttpd2dq _ s => s.fits as32
  | .cvtdq2pd _ s => s.fits as32
  | .cvtps2dq _ s => s.fits as32
  | .cvttps2dq _ s => s.fits as32
  | .cvtdq2ps _ s => s.fits as32
  | .ldmxcsr m => m.fits as32
  | .stmxcsr m => m.fits as32
  | .addsubpd _ s => s.fits as32
  | .addsubps _ s => s.fits as32
  | .haddpd _ s => s.fits as32
  | .haddps _ s => s.fits as32
  | .hsubpd _ s => s.fits as32
  | .hsubps _ s => s.fits as32
  | .movddup _ s => s.fits as32
  | .movshdup _ s => s.fits as32
  | .movsldup _ s => s.fits as32
  | .lddqu _ m => m.fits as32

end Sys2Proof
end

