-- ==== Sys2Proof/Decode.lean ====
section
/-! DEFINITION. The decoder (30_encoding R305: prefixes, opcode maps, ModR/M, SIB, displacement, immediates), total on
any bytes, and after it the encoder, written from the same tables. A prefix byte decodes to its own instruction
(log 4), except that a mandatory prefix directly before an 0F opcode whose cell has that variant is part of the
instruction it selects (R316), as F3 is part of PAUSE (R420). Noncomputable only because Lean's compiler has no tags
for an inductive of more than 244 constructors with fields; the kernel evaluates every definition here. -/
noncomputable section
namespace Sys2Proof

/-- What the decoder knows besides the bytes: the two attributes of R306 and the prefixes already taken. -/
structure DecodeCtx where
  /-- operand-size attribute 32 -/
  os32 : Bool
  /-- address-size attribute 32 -/
  as32 : Bool
  /-- a 66 prefix was taken -/
  opsz : Bool := false
  /-- the last of F2 (false) and F3 (true) taken -/
  rep : Option Bool := none
  /-- both were taken -/
  mix : Bool := false
  deriving DecidableEq, Repr

/-- Why no instruction was read: the bytes end too soon, no row of the maps has them (R380), or two different mandatory
prefixes stand before a cell of the SIMD instructions (93 U12). -/
inductive DecodeErr where
  | more | bad | mixed
  deriving DecidableEq, Repr

/-- The decoder's answer: the instruction and how many bytes it takes, or why there is none. -/
inductive DecodeResult where
  | ok (i : Instr) (len : Nat)
  | more
  | bad
  | mixed
  deriving DecidableEq, Repr

/-- A mandatory prefix (R316). -/
inductive Mand where
  | p66 | pF3 | pF2
  deriving DecidableEq, Repr

/-- A reader of instruction bytes. -/
abbrev P := StateT (List Byte) (Except DecodeErr)

/-- No row of the maps has these bytes. -/
def reject {α : Type} : P α := throw .bad

def readByte : P Byte := fun bs =>
  match bs with
  | [] => .error .more
  | b :: rest => .ok (b, rest)

/-- Little-endian fields (R301). -/
def read16 : P Word16 := do
  let a ← readByte; let b ← readByte
  return b ++ a

def read32 : P Word32 := do
  let a ← read16; let b ← read16
  return b ++ a

/-- An Iv field: as wide as the operand size (R347). -/
def readImmV (c : DecodeCtx) : P Imm := do
  if c.os32 then return .i32 (← read32) else return .i16 (← read16)

def readImm8 : P Imm := do return .i8 (← readByte)

/-- One byte when w = 0, else Iv (R347). -/
def readImmW (c : DecodeCtx) (w : Bool) : P Imm := if w then readImmV c else readImm8

def readDisp16 (md : BitVec 2) : P Disp16 := do
  if md = 0 then return .none
  if md = 1 then return .d8 (← readByte)
  return .d16 (← read16)

def readDisp32 (md : BitVec 2) : P Disp32 := do
  if md = 0 then return .none
  if md = 1 then return .d8 (← readByte)
  return .d32 (← read32)

/-- R343. -/
def readMem16 (md : BitVec 2) (rm : RegNum) : P MemRef := do
  if md = 0 ∧ rm = 6 then return .abs16 (← read16)
  return .base16 rm (← readDisp16 md)

/-- R342. -/
def readSib (md : BitVec 2) : P MemRef := do
  let b ← readByte
  let scale := b.extractLsb' 6 2
  let index := b.extractLsb' 3 3
  let base := b.extractLsb' 0 3
  if md = 0 ∧ base = 5 then return .sibAbs scale index (← read32)
  return .sib scale index base (← readDisp32 md)

/-- R341. -/
def readMem32 (md : BitVec 2) (rm : RegNum) : P MemRef := do
  if rm = 4 then readSib md
  else if md = 0 ∧ rm = 5 then return .abs32 (← read32)
  else return .base32 rm (← readDisp32 md)

/-- The ModR/M byte and what follows it: the reg field and the operand (R340). -/
def readModrm (as32 : Bool) : P (RegNum × Rm) := do
  let b ← readByte
  let md := b.extractLsb' 6 2
  let g := b.extractLsb' 3 3
  let rm := b.extractLsb' 0 3
  if md = 3 then return (g, .reg rm)
  if as32 then return (g, .mem (← readMem32 md rm)) else return (g, .mem (← readMem16 md rm))

/-- A memory-only operand (code M, R330); a register form is reserved (R380). -/
def readModrmMem (as32 : Bool) : P (RegNum × MemRef) := do
  match ← readModrm as32 with
  | (g, .mem m) => return (g, m)
  | (_, .reg _) => reject

/-- A register-only operand (notes 1H); a memory form is reserved (R380). -/
def readModrmReg (as32 : Bool) : P (RegNum × RegNum) := do
  match ← readModrm as32 with
  | (g, .reg r) => return (g, r)
  | (_, .mem _) => reject

/-- MOV to and from control, debug and test registers ignore mod (R330). -/
def readModrmAsReg : P (RegNum × RegNum) := do
  let b ← readByte
  return (b.extractLsb' 3 3, b.extractLsb' 0 3)

/-- The row of a group that a three-bit field selects; there is none past the end of the list. -/
def select {α : Type} (rows : List (P α)) (k : RegNum) : P α := (rows[k.toNat]?).getD reject

/-- The eight operations of the 00 to 3F rows and of group 1, in order (R350, R360). -/
def aluOf (k : RegNum) (f : AluForm) : Instr :=
  let ops : List (AluForm → Instr) := [.add, .or, .adc, .sbb, .and, .sub, .xor]
  ((ops[k.toNat]?).getD .cmp) f

/-- Group 2 (R360); /6 is blank. -/
def shiftOf (k : RegNum) (f : ShiftForm) : P Instr :=
  select [return .rol f, return .ror f, return .rcl f, return .rcr f, return .shl f, return .shr f, reject, return .sar f] k

/-- sreg3 (R324). -/
def segOf (k : RegNum) : P Seg := select (([.es, .cs, .ss, .ds, .fs, .gs] : List Seg).map pure) k

/-- The prefix byte of each segment register (R311). -/
def overrideOf : Seg → Instr
  | .es => .esOverride | .cs => .csOverride | .ss => .ssOverride
  | .ds => .dsOverride | .fs => .fsOverride | .gs => .gsOverride

/-- The prefix bytes (R310): 001 sreg 110 and 0110010x override the segment, 0110011x a size; 1111001x repeats, F0 locks. -/
def prefixOf (b : Byte) : Option Instr :=
  let low (even odd : Instr) : Option Instr := some (if b.getLsbD 0 then odd else even)
  if b &&& 0xE7 = 0x26 then
    some (overrideOf (if b.getLsbD 4 then (if b.getLsbD 3 then .ds else .ss) else if b.getLsbD 3 then .cs else .es))
  else if b &&& 0xFE = 0x64 then low (overrideOf .fs) (overrideOf .gs)
  else if b &&& 0xFE = 0x66 then low .opSizeOverride .addrSizeOverride
  else if b &&& 0xFE = 0xF2 then low .repne .rep
  else if b = 0xF0 then some .lock
  else none

/-- Group 3 (R360); /1 is blank. -/
def group3 (c : DecodeCtx) (w : Bool) : P Instr := do
  let (g, rm) ← readModrm c.as32
  match g.toNat with
  | 0 => return .test (.rmImm rm (← readImmW c w))
  | 2 => return .not w rm | 3 => return .neg w rm | 4 => return .mul w rm | 5 => return .imulAcc w rm
  | 6 => return .div w rm | 7 => return .idiv w rm | _ => reject

/-- Group 5 (R360). -/
def group5 (c : DecodeCtx) : P Instr := do
  let (g, rm) ← readModrm c.as32
  match g.toNat, rm with
  | 0, _ => return .inc (.rm true rm) | 1, _ => return .dec (.rm true rm)
  | 2, _ => return .call (.rm rm) | 3, .mem m => return .callFar (.mem m)
  | 4, _ => return .jmp (.rm rm) | 5, .mem m => return .jmpFar (.mem m)
  | 6, _ => return .push (.rm rm) | _, _ => reject

def readMOffs (c : DecodeCtx) : P MOffs := do
  if c.as32 then return .o32 (← read32) else return .o16 (← read16)

def readFarPtr (c : DecodeCtx) : P FarPtr := do
  if c.os32 then
    let o ← read32; let s ← read16
    return .p32 o s
  else
    let o ← read16; let s ← read16
    return .p16 o s


/-- The x87 memory forms (R371): first byte, then the reg field. -/
def x87Mem (op : Byte) (g : RegNum) (m : MemRef) : P Instr :=
  match op.toNat % 8, g.toNat with
  | 0, 0 => return .fadd (.m32 m)
  | 0, 1 => return .fmul (.m32 m)
  | 0, 2 => return .fcom (.m32 m)
  | 0, 3 => return .fcomp (.m32 m)
  | 0, 4 => return .fsub (.m32 m)
  | 0, 5 => return .fsubr (.m32 m)
  | 0, 6 => return .fdiv (.m32 m)
  | 0, 7 => return .fdivr (.m32 m)
  | 1, 0 => return .fld (.m32 m)
  | 1, 2 => return .fst (.m32 m)
  | 1, 3 => return .fstp (.m32 m)
  | 1, 4 => return .fldenv m
  | 1, 5 => return .fldcw m
  | 1, 6 => return .fnstenv m
  | 1, 7 => return .fnstcw m
  | 2, 0 => return .fiadd (.m32 m)
  | 2, 1 => return .fimul (.m32 m)
  | 2, 2 => return .ficom (.m32 m)
  | 2, 3 => return .ficomp (.m32 m)
  | 2, 4 => return .fisub (.m32 m)
  | 2, 5 => return .fisubr (.m32 m)
  | 2, 6 => return .fidiv (.m32 m)
  | 2, 7 => return .fidivr (.m32 m)
  | 3, 0 => return .fild (.m32 m)
  | 3, 1 => return .fisttp (.m32 m)
  | 3, 2 => return .fist (.m32 m)
  | 3, 3 => return .fistp (.m32 m)
  | 3, 5 => return .fld (.m80 m)
  | 3, 7 => return .fstp (.m80 m)
  | 4, 0 => return .fadd (.m64 m)
  | 4, 1 => return .fmul (.m64 m)
  | 4, 2 => return .fcom (.m64 m)
  | 4, 3 => return .fcomp (.m64 m)
  | 4, 4 => return .fsub (.m64 m)
  | 4, 5 => return .fsubr (.m64 m)
  | 4, 6 => return .fdiv (.m64 m)
  | 4, 7 => return .fdivr (.m64 m)
  | 5, 0 => return .fld (.m64 m)
  | 5, 1 => return .fisttp (.m64 m)
  | 5, 2 => return .fst (.m64 m)
  | 5, 3 => return .fstp (.m64 m)
  | 5, 4 => return .frstor m
  | 5, 6 => return .fnsave m
  | 5, 7 => return .fnstsw (.mem m)
  | 6, 0 => return .fiadd (.m16 m)
  | 6, 1 => return .fimul (.m16 m)
  | 6, 2 => return .ficom (.m16 m)
  | 6, 3 => return .ficomp (.m16 m)
  | 6, 4 => return .fisub (.m16 m)
  | 6, 5 => return .fisubr (.m16 m)
  | 6, 6 => return .fidiv (.m16 m)
  | 6, 7 => return .fidivr (.m16 m)
  | 7, 0 => return .fild (.m16 m)
  | 7, 1 => return .fisttp (.m16 m)
  | 7, 2 => return .fist (.m16 m)
  | 7, 3 => return .fistp (.m16 m)
  | 7, 4 => return .fbld m
  | 7, 5 => return .fild (.m64 m)
  | 7, 6 => return .fbstp m
  | 7, 7 => return .fistp (.m64 m)
  | _, _ => reject

/-- The x87 register forms (R372): first byte, then bits 5:3 and 2:0 of the second byte. -/
def x87Reg (op : Byte) (g i : RegNum) : P Instr :=
  match op.toNat % 8, g.toNat with
  | 0, 0 => return .fadd (.st0 i)
  | 0, 1 => return .fmul (.st0 i)
  | 0, 2 => return .fcom (.st i)
  | 0, 3 => return .fcomp (.st i)
  | 0, 4 => return .fsub (.st0 i)
  | 0, 5 => return .fsubr (.st0 i)
  | 0, 6 => return .fdiv (.st0 i)
  | 0, 7 => return .fdivr (.st0 i)
  | 1, 0 => return .fld (.st i)
  | 1, 1 => return .fxch i
  | 1, 2 => match i.toNat with | 0 => return .fnop | _ => reject
  | 1, 4 => select [return .fchs, return .fabs, reject, reject, return .ftst, return .fxam] i
  | 1, 5 => select [return .fld1, return .fldl2t, return .fldl2e, return .fldpi, return .fldlg2, return .fldln2, return .fldz] i
  | 1, 6 => select [return .f2xm1, return .fyl2x, return .fptan, return .fpatan, return .fxtract, return .fprem1, return .fdecstp,
      return .fincstp] i
  | 1, 7 => select [return .fprem, return .fyl2xp1, return .fsqrt, return .fsincos, return .frndint, return .fscale, return .fsin,
      return .fcos] i
  | 2, 0 => return .fcmovb i
  | 2, 1 => return .fcmove i
  | 2, 2 => return .fcmovbe i
  | 2, 3 => return .fcmovu i
  | 2, 5 => match i.toNat with | 1 => return .fucompp | _ => reject
  | 3, 0 => return .fcmovnb i
  | 3, 1 => return .fcmovne i
  | 3, 2 => return .fcmovnbe i
  | 3, 3 => return .fcmovnu i
  | 3, 4 => match i.toNat with | 2 => return .fnclex | 3 => return .fninit | _ => reject
  | 3, 5 => return .fucomi i
  | 3, 6 => return .fcomi i
  | 4, 0 => return .fadd (.sti i)
  | 4, 1 => return .fmul (.sti i)
  | 4, 4 => return .fsubr (.sti i)
  | 4, 5 => return .fsub (.sti i)
  | 4, 6 => return .fdivr (.sti i)
  | 4, 7 => return .fdiv (.sti i)
  | 5, 0 => return .ffree i
  | 5, 2 => return .fst (.st i)
  | 5, 3 => return .fstp (.st i)
  | 5, 4 => return .fucom i
  | 5, 5 => return .fucomp i
  | 6, 0 => return .faddp i
  | 6, 1 => return .fmulp i
  | 6, 3 => match i.toNat with | 1 => return .fcompp | _ => reject
  | 6, 4 => return .fsubrp i
  | 6, 5 => return .fsubp i
  | 6, 6 => return .fdivrp i
  | 6, 7 => return .fdivp i
  | 7, 4 => match i.toNat with | 0 => return .fnstsw .ax | _ => reject
  | 7, 5 => return .fucomip i
  | 7, 6 => return .fcomip i
  | _, _ => reject

def readX87 (c : DecodeCtx) (op : Byte) : P Instr := do
  match ← readModrm c.as32 with
  | (g, .mem m) => x87Mem op g m
  | (g, .reg i) => x87Reg op g i

/-- The one-byte opcode map (R350), by bits 7:3 of the opcode and then its low three bits. -/
def map1 (c : DecodeCtx) (op : Byte) : P Instr :=
  let r : RegNum := op.extractLsb' 0 3
  let k : RegNum := op.extractLsb' 3 3
  let w : Bool := op.getLsbD 0
  let rm (f : RegNum → Rm → Instr) : P Instr := do
    let (g, x) ← readModrm c.as32
    return f g x
  let mem (f : RegNum → MemRef → Instr) : P Instr := do
    let (g, x) ← readModrmMem c.as32
    return f g x
  if op.toNat < 0x40 ∧ r.toNat < 6 then
    match r.toNat with
    | 0 | 1 => rm fun g x => aluOf k (.rmReg w x g)
    | 2 | 3 => rm fun g x => aluOf k (.regRm w g x)
    | _ => do return aluOf k (.accImm (← readImmW c w))
  else match op.toNat / 8, r.toNat with
  | 0, 6 => return .push (.seg .es) | 0, 7 => return .pop (.seg .es) | 1, 6 => return .push (.seg .cs)
  | 2, 6 => return .push (.seg .ss) | 2, 7 => return .pop (.seg .ss)
  | 3, 6 => return .push (.seg .ds) | 3, 7 => return .pop (.seg .ds)
  | 4, 7 => return .daa | 5, 7 => return .das | 6, 7 => return .aaa | 7, 7 => return .aas
  | 8, _ => return .inc (.reg r)
  | 9, _ => return .dec (.reg r)
  | 10, _ => return .push (.reg r)
  | 11, _ => return .pop (.reg r)
  | 12, 0 => return .pusha
  | 12, 1 => return .popa
  | 12, 2 => mem .bound
  | 12, 3 => rm fun g x => .arpl x g
  | 13, 0 => do return .push (.imm (← readImmV c))
  | 13, 1 => do
      let (g, x) ← readModrm c.as32
      return .imulImm g x (← readImmV c)
  | 13, 2 => do return .push (.imm (← readImm8))
  | 13, 3 => do
      let (g, x) ← readModrm c.as32
      return .imulImm g x (← readImm8)
  | 13, 4 | 13, 5 => return .ins w
  | 13, 6 | 13, 7 => return .outs w
  | 14, _ | 15, _ => do return .jcc (op.extractLsb' 0 4) (← readImm8)
  | 16, 0 | 16, 1 | 16, 2 | 16, 3 => do
      let (g, x) ← readModrm c.as32
      let s := op.getLsbD 1
      return aluOf g (.rmImm s w x (← readImmW c (w && !s)))
  | 16, 4 | 16, 5 => rm fun g x => .test (.rmReg w x g)
  | 16, _ => rm fun g x => .xchg (.rmReg w x g)
  | 17, 0 | 17, 1 => rm fun g x => .mov (.rmReg w x g)
  | 17, 2 | 17, 3 => rm fun g x => .mov (.regRm w g x)
  | 17, 4 => do
      let (g, x) ← readModrm c.as32
      return .movFromSeg x (← segOf g)
  | 17, 5 => mem .lea
  | 17, 6 => do
      let (g, x) ← readModrm c.as32
      let sr ← segOf g
      if sr = .cs then reject else return .movToSeg sr x
  | 17, 7 => do
      let (g, x) ← readModrm c.as32
      if g = 0 then return .pop (.rm x) else reject
  | 18, 0 => return (if c.rep = some true then .pause else .nop)
  | 18, _ => return .xchg (.acc r)
  | 19, 0 => return .cbw
  | 19, 1 => return .cwd
  | 19, 2 => do return .callFar (.ptr (← readFarPtr c))
  | 19, 3 => return .fwait
  | 19, 4 => return .pushf
  | 19, 5 => return .popf
  | 19, 6 => return .sahf
  | 19, _ => return .lahf
  | 20, 0 | 20, 1 => do return .movFromOffs w (← readMOffs c)
  | 20, 2 | 20, 3 => do return .movToOffs w (← readMOffs c)
  | 20, 4 | 20, 5 => return .movs w
  | 20, _ => return .cmps w
  | 21, 0 | 21, 1 => do return .test (.accImm (← readImmW c w))
  | 21, 2 | 21, 3 => return .stos w
  | 21, 4 | 21, 5 => return .lods w
  | 21, _ => return .scas w
  | 22, _ => do return .mov (.regImm r (← readImm8))
  | 23, _ => do return .mov (.regImm r (← readImmV c))
  | 24, 0 | 24, 1 => do
      let (g, x) ← readModrm c.as32
      let n ← readByte
      shiftOf g (.imm w x n)
  | 24, 2 => do return .ret (some (← read16))
  | 24, 3 => return .ret none
  | 24, 4 => mem .les
  | 24, 5 => mem .lds
  | 24, _ => do
      let (g, x) ← readModrm c.as32
      let v ← readImmW c w
      if g = 0 then return .mov (.rmImm x v) else reject
  | 25, 0 => do
      let n ← read16
      return .enter n (← readByte)
  | 25, 1 => return .leave
  | 25, 2 => do return .retf (some (← read16))
  | 25, 3 => return .retf none
  | 25, 4 => return .int3
  | 25, 5 => do return .int (← readByte)
  | 25, 6 => return .into
  | 25, _ => return .iret
  | 26, 0 | 26, 1 => do
      let (g, x) ← readModrm c.as32
      shiftOf g (.one w x)
  | 26, 2 | 26, 3 => do
      let (g, x) ← readModrm c.as32
      shiftOf g (.cl w x)
  | 26, 4 => do return .aam (← readByte)
  | 26, 5 => do return .aad (← readByte)
  | 26, 7 => return .xlat
  | 27, _ => readX87 c op
  | 28, 0 => do return .loopne (← readByte)
  | 28, 1 => do return .loope (← readByte)
  | 28, 2 => do return .loop (← readByte)
  | 28, 3 => do return .jcxz (← readByte)
  | 28, 4 | 28, 5 => do return .inPort (.imm w (← readByte))
  | 28, _ => do return .outPort (.imm w (← readByte))
  | 29, 0 => do return .call (.rel (← readImmV c))
  | 29, 1 => do return .jmp (.rel (← readImmV c))
  | 29, 2 => do return .jmpFar (.ptr (← readFarPtr c))
  | 29, 3 => do return .jmp (.rel (← readImm8))
  | 29, 4 | 29, 5 => return .inPort (.dx w)
  | 29, _ => return .outPort (.dx w)
  | 30, 4 => return .hlt
  | 30, 5 => return .cmc
  | 30, 6 => group3 c false
  | 30, 7 => group3 c true
  | 31, 0 => return .clc
  | 31, 1 => return .stc
  | 31, 2 => return .cli
  | 31, 3 => return .sti
  | 31, 4 => return .cld
  | 31, 5 => return .std
  | 31, 6 => do
      let (g, x) ← readModrm c.as32
      if g = 0 then return .inc (.rm false x) else if g = 1 then return .dec (.rm false x) else reject
  | 31, 7 => group5 c
  | _, _ => reject

/-- A cell of the two-byte map: its reader and, for a cell with marked variants, the mandatory prefix that chose it. -/
abbrev Cell := P (Option Mand × Instr)

/-- A cell with one unmarked entry. -/
def plain (p : P Instr) : Cell := do return (none, ← p)

/-- The choice among a cell's variants (R316): the last of F2 and F3, else 66, else the unmarked entry; a prefix whose
variant is blank is reserved, and two different prefixes are no choice (93 U12). -/
def pick (c : DecodeCtx) (np p66 f3 f2 : Option (P Instr)) : Cell :=
  let run (m : Option Mand) (v : Option (P Instr)) : Cell :=
    match v with
    | some p => do return (m, ← p)
    | none => reject
  if c.mix || (c.opsz && c.rep.isSome) then throw .mixed
  else match c.rep, c.opsz with
  | some true, _ => run (some .pF3) f3
  | some false, _ => run (some .pF2) f2
  | none, true => run (some .p66) p66
  | none, false => run none np

/-- Group 6 (R360). -/
def group6 (g : RegNum) (x : Rm) : P Instr :=
  select [return .sldt x, return .str x, return .lldt x, return .ltr x, return .verr x, return .verw x] g

/-- Group 7 (R360). -/
def group7 (g : RegNum) (x : Rm) : P Instr :=
  match g.toNat, x with
  | 0, .mem m => return .sgdt m | 1, .mem m => return .sidt m | 2, .mem m => return .lgdt m | 3, .mem m => return .lidt m
  | 1, .reg r => if r = 0 then return .monitor else if r = 1 then return .mwait else reject
  | 4, _ => return .smsw x | 6, _ => return .lmsw x | 7, .mem m => return .invlpg m | _, _ => reject

/-- Group 15 (R360; the fences with any r/m, 93 U36, log 21). -/
def group15 (g : RegNum) (x : Rm) : P Instr :=
  match g.toNat, x with
  | 0, .mem m => return .fxsave m | 1, .mem m => return .fxrstor m | 2, .mem m => return .ldmxcsr m
  | 3, .mem m => return .stmxcsr m | 7, .mem m => return .clflush m
  | 5, .reg _ => return .lfence | 6, .reg _ => return .mfence | 7, .reg _ => return .sfence | _, _ => reject

/-- The row of a packed shift by an immediate that reg chooses, on an MMX or, when `wide`, an XMM register (R360). -/
def shiftRow (wide : Bool) (op : Byte) (g r : RegNum) : Option (Byte → Instr) :=
  let f (mk : PkShift → Instr) : Option (Byte → Instr) := some fun n => mk (if wide then .immXmm r n else .immMm r n)
  match op.toNat, g.toNat with
  | 0x71, 2 => f .psrlw | 0x71, 4 => f .psraw | 0x71, 6 => f .psllw
  | 0x72, 2 => f .psrld | 0x72, 4 => f .psrad | 0x72, 6 => f .pslld
  | 0x73, 2 => f .psrlq | 0x73, 6 => f .psllq
  | 0x73, 3 => if wide then some (.psrldq r) else none
  | 0x73, 7 => if wide then some (.pslldq r) else none
  | _, _ => none

/-- Groups 12 to 14 (R360): packed shifts by an immediate. The map's entry has no operand code and a blank row none, so a
blank row has no immediate to read (R305). -/
def groupShift (c : DecodeCtx) (op : Byte) : Cell :=
  let go (wide : Bool) : P Instr := do
    let (g, r) ← readModrmReg c.as32
    match shiftRow wide op g r with
    | some mk => return mk (← readByte)
    | none => reject
  pick c (some (go false)) (some (go true)) none none

/-- A row with an MMX entry and a 66 entry of the same operation. -/
def cellPk (c : DecodeCtx) (f : Pk → Instr) : Cell :=
  pick c (some do let (g, x) ← readModrm c.as32; return f (.mm g x))
    (some do let (g, x) ← readModrm c.as32; return f (.xmm g x)) none none

/-- The SIMD cells of the two-byte map (R352, R353): those with marked variants. An immediate is read before the form is
judged (R305, steps 5 and 6). -/
def mapSimd (c : DecodeCtx) (op : Byte) : Cell :=
  let rm (f : RegNum → Rm → Instr) : P Instr := do
    let (g, x) ← readModrm c.as32
    return f g x
  let rmI (f : RegNum → Rm → Byte → Instr) : P Instr := do
    let (g, x) ← readModrm c.as32
    return f g x (← readByte)
  let mem (f : RegNum → MemRef → Instr) : P Instr := do
    let (g, x) ← readModrmMem c.as32
    return f g x
  let reg (f : RegNum → RegNum → Instr) : P Instr := do
    let (g, x) ← readModrmReg c.as32
    return f g x
  let regI (f : RegNum → RegNum → Byte → Instr) : P Instr := do
    let (g, x) ← readModrm c.as32
    let n ← readByte
    match x with
    | .reg r => return f g r n
    | .mem _ => reject
  match op.toNat / 16, op.toNat % 16 with
  | 1, 0 => pick c (some (rm fun g x => .movups (.load g x))) (some (rm fun g x => .movupd (.load g x))) (some (rm fun g x => .movss (.load g x))) (some (rm fun g x => .movsd (.load g x)))
  | 1, 1 => pick c (some (rm fun g x => .movups (.store x g))) (some (rm fun g x => .movupd (.store x g))) (some (rm fun g x => .movss (.store x g))) (some (rm fun g x => .movsd (.store x g)))
  | 1, 2 => pick c (some do
        match ← readModrm c.as32 with
        | (g, .mem m) => return .movlps (.load g m)
        | (g, .reg x) => return .movhlps g x) (some (mem fun g m => .movlpd (.load g m))) (some (rm .movsldup)) (some (rm .movddup))
  | 1, 3 => pick c (some (mem fun g m => .movlps (.store m g))) (some (mem fun g m => .movlpd (.store m g))) none none
  | 1, 4 => pick c (some (rm .unpcklps)) (some (rm .unpcklpd)) none none
  | 1, 5 => pick c (some (rm .unpckhps)) (some (rm .unpckhpd)) none none
  | 1, 6 => pick c (some do
        match ← readModrm c.as32 with
        | (g, .mem m) => return .movhps (.load g m)
        | (g, .reg x) => return .movlhps g x) (some (mem fun g m => .movhpd (.load g m))) (some (rm .movshdup)) none
  | 1, 7 => pick c (some (mem fun g m => .movhps (.store m g))) (some (mem fun g m => .movhpd (.store m g))) none none
  | 2, 8 => pick c (some (rm fun g x => .movaps (.load g x))) (some (rm fun g x => .movapd (.load g x))) none none
  | 2, 9 => pick c (some (rm fun g x => .movaps (.store x g))) (some (rm fun g x => .movapd (.store x g))) none none
  | 2, 10 => pick c (some (rm .cvtpi2ps)) (some (rm .cvtpi2pd)) (some (rm .cvtsi2ss)) (some (rm .cvtsi2sd))
  | 2, 11 => pick c (some (mem fun g m => .movntps m g)) (some (mem fun g m => .movntpd m g)) none none
  | 2, 12 => pick c (some (rm .cvttps2pi)) (some (rm .cvttpd2pi)) (some (rm .cvttss2si)) (some (rm .cvttsd2si))
  | 2, 13 => pick c (some (rm .cvtps2pi)) (some (rm .cvtpd2pi)) (some (rm .cvtss2si)) (some (rm .cvtsd2si))
  | 2, 14 => pick c (some (rm .ucomiss)) (some (rm .ucomisd)) none none
  | 2, 15 => pick c (some (rm .comiss)) (some (rm .comisd)) none none
  | 5, 0 => pick c (some (reg .movmskps)) (some (reg .movmskpd)) none none
  | 5, 1 => pick c (some (rm .sqrtps)) (some (rm .sqrtpd)) (some (rm .sqrtss)) (some (rm .sqrtsd))
  | 5, 2 => pick c (some (rm .rsqrtps)) none (some (rm .rsqrtss)) none
  | 5, 3 => pick c (some (rm .rcpps)) none (some (rm .rcpss)) none
  | 5, 4 => pick c (some (rm .andps)) (some (rm .andpd)) none none
  | 5, 5 => pick c (some (rm .andnps)) (some (rm .andnpd)) none none
  | 5, 6 => pick c (some (rm .orps)) (some (rm .orpd)) none none
  | 5, 7 => pick c (some (rm .xorps)) (some (rm .xorpd)) none none
  | 5, 8 => pick c (some (rm .addps)) (some (rm .addpd)) (some (rm .addss)) (some (rm .addsd))
  | 5, 9 => pick c (some (rm .mulps)) (some (rm .mulpd)) (some (rm .mulss)) (some (rm .mulsd))
  | 5, 10 => pick c (some (rm .cvtps2pd)) (some (rm .cvtpd2ps)) (some (rm .cvtss2sd)) (some (rm .cvtsd2ss))
  | 5, 11 => pick c (some (rm .cvtdq2ps)) (some (rm .cvtps2dq)) (some (rm .cvttps2dq)) none
  | 5, 12 => pick c (some (rm .subps)) (some (rm .subpd)) (some (rm .subss)) (some (rm .subsd))
  | 5, 13 => pick c (some (rm .minps)) (some (rm .minpd)) (some (rm .minss)) (some (rm .minsd))
  | 5, 14 => pick c (some (rm .divps)) (some (rm .divpd)) (some (rm .divss)) (some (rm .divsd))
  | 5, 15 => pick c (some (rm .maxps)) (some (rm .maxpd)) (some (rm .maxss)) (some (rm .maxsd))
  | 6, 0 => cellPk c .punpcklbw
  | 6, 1 => cellPk c .punpcklwd
  | 6, 2 => cellPk c .punpckldq
  | 6, 3 => cellPk c .packsswb
  | 6, 4 => cellPk c .pcmpgtb
  | 6, 5 => cellPk c .pcmpgtw
  | 6, 6 => cellPk c .pcmpgtd
  | 6, 7 => cellPk c .packuswb
  | 6, 8 => cellPk c .punpckhbw
  | 6, 9 => cellPk c .punpckhwd
  | 6, 10 => cellPk c .punpckhdq
  | 6, 11 => cellPk c .packssdw
  | 6, 12 => pick c none (some (rm .punpcklqdq)) none none
  | 6, 13 => pick c none (some (rm .punpckhqdq)) none none
  | 6, 14 => pick c (some (rm fun g x => .movd (.toMm g x))) (some (rm fun g x => .movd (.toXmm g x))) none none
  | 6, 15 => pick c (some (rm fun g x => .movq (.toMm g x))) (some (rm fun g x => .movdqa (.load g x))) (some (rm fun g x => .movdqu (.load g x))) none
  | 7, 0 => pick c (some (rmI .pshufw)) (some (rmI .pshufd)) (some (rmI .pshufhw)) (some (rmI .pshuflw))
  | 7, 1 => groupShift c op
  | 7, 2 => groupShift c op
  | 7, 3 => groupShift c op
  | 7, 4 => cellPk c .pcmpeqb
  | 7, 5 => cellPk c .pcmpeqw
  | 7, 6 => cellPk c .pcmpeqd
  | 7, 12 => pick c none (some (rm .haddpd)) none (some (rm .haddps))
  | 7, 13 => pick c none (some (rm .hsubpd)) none (some (rm .hsubps))
  | 7, 14 => pick c (some (rm fun g x => .movd (.fromMm x g))) (some (rm fun g x => .movd (.fromXmm x g))) (some (rm fun g x => .movq (.toXmm g x))) none
  | 7, 15 => pick c (some (rm fun g x => .movq (.fromMm x g))) (some (rm fun g x => .movdqa (.store x g))) (some (rm fun g x => .movdqu (.store x g))) none
  | 12, 2 => pick c (some (rmI .cmpps)) (some (rmI .cmppd)) (some (rmI .cmpss)) (some (rmI .cmpsd))
  | 12, 4 => pick c (some (rmI fun g x n => .pinsrw (.mm g x) n)) (some (rmI fun g x n => .pinsrw (.xmm g x) n)) none none
  | 12, 5 => pick c (some (regI fun g x n => .pextrw (.mm g x) n)) (some (regI fun g x n => .pextrw (.xmm g x) n)) none none
  | 12, 6 => pick c (some (rmI .shufps)) (some (rmI .shufpd)) none none
  | 13, 0 => pick c none (some (rm .addsubpd)) none (some (rm .addsubps))
  | 13, 1 => cellPk c fun o => .psrlw (.by o)
  | 13, 2 => cellPk c fun o => .psrld (.by o)
  | 13, 3 => cellPk c fun o => .psrlq (.by o)
  | 13, 4 => cellPk c .paddq
  | 13, 5 => cellPk c .pmullw
  | 13, 6 => pick c none (some (rm fun g x => .movq (.fromXmm x g))) (some (reg .movq2dq)) (some (reg .movdq2q))
  | 13, 7 => pick c (some (reg fun g x => .pmovmskb (.mm g x))) (some (reg fun g x => .pmovmskb (.xmm g x))) none none
  | 13, 8 => cellPk c .psubusb
  | 13, 9 => cellPk c .psubusw
  | 13, 10 => cellPk c .pminub
  | 13, 11 => cellPk c .pand
  | 13, 12 => cellPk c .paddusb
  | 13, 13 => cellPk c .paddusw
  | 13, 14 => cellPk c .pmaxub
  | 13, 15 => cellPk c .pandn
  | 14, 0 => cellPk c .pavgb
  | 14, 1 => cellPk c fun o => .psraw (.by o)
  | 14, 2 => cellPk c fun o => .psrad (.by o)
  | 14, 3 => cellPk c .pavgw
  | 14, 4 => cellPk c .pmulhuw
  | 14, 5 => cellPk c .pmulhw
  | 14, 6 => pick c none (some (rm .cvttpd2dq)) (some (rm .cvtdq2pd)) (some (rm .cvtpd2dq))
  | 14, 7 => pick c (some (mem fun g m => .movntq m g)) (some (mem fun g m => .movntdq m g)) none none
  | 14, 8 => cellPk c .psubsb
  | 14, 9 => cellPk c .psubsw
  | 14, 10 => cellPk c .pminsw
  | 14, 11 => cellPk c .por
  | 14, 12 => cellPk c .paddsb
  | 14, 13 => cellPk c .paddsw
  | 14, 14 => cellPk c .pmaxsw
  | 14, 15 => cellPk c .pxor
  | 15, 0 => pick c none none none (some (mem .lddqu))
  | 15, 1 => cellPk c fun o => .psllw (.by o)
  | 15, 2 => cellPk c fun o => .pslld (.by o)
  | 15, 3 => cellPk c fun o => .psllq (.by o)
  | 15, 4 => cellPk c .pmuludq
  | 15, 5 => cellPk c .pmaddwd
  | 15, 6 => cellPk c .psadbw
  | 15, 7 => pick c (some (reg .maskmovq)) (some (reg .maskmovdqu)) none none
  | 15, 8 => cellPk c .psubb
  | 15, 9 => cellPk c .psubw
  | 15, 10 => cellPk c .psubd
  | 15, 11 => cellPk c .psubq
  | 15, 12 => cellPk c .paddb
  | 15, 13 => cellPk c .paddw
  | 15, 14 => cellPk c .paddd
  | _, _ => reject

/-- The two-byte opcode map (R352, R353). -/
def map2 (c : DecodeCtx) (op : Byte) : Cell :=
  let r : RegNum := op.extractLsb' 0 3
  let cc : Cond := op.extractLsb' 0 4
  let w : Bool := op.getLsbD 0
  let rm (f : RegNum → Rm → Instr) : Cell := plain do
    let (g, x) ← readModrm c.as32
    return f g x
  let mem (f : RegNum → MemRef → Instr) : Cell := plain do
    let (g, x) ← readModrmMem c.as32
    return f g x
  let special (f : RegNum → RegNum → Instr) : Cell := plain do
    let (g, x) ← readModrmAsReg
    return f g x
  match op.toNat / 16, op.toNat % 16 with
  | 0, 0 => plain do
      let (g, x) ← readModrm c.as32
      group6 g x
  | 0, 1 => plain do
      let (g, x) ← readModrm c.as32
      group7 g x
  | 0, 2 => rm .lar
  | 0, 3 => rm .lsl
  | 0, 6 => plain (return .clts)
  | 0, 8 => plain (return .invd)
  | 0, 9 => plain (return .wbinvd)
  | 0, 11 => plain (return .ud2)
  | 1, 8 => plain do
      let (g, m) ← readModrmMem c.as32
      match g.toNat with
      | 0 => return .prefetchnta m | 1 => return .prefetcht0 m | 2 => return .prefetcht1 m | 3 => return .prefetcht2 m
      | _ => reject
  | 2, 0 => special .movFromCr
  | 2, 1 => special .movFromDr
  | 2, 2 => special .movToCr
  | 2, 3 => special .movToDr
  | 2, 4 => special (.movTest false)
  | 2, 6 => special (.movTest true)
  | 3, 0 => plain (return .wrmsr)
  | 3, 1 => plain (return .rdtsc)
  | 3, 2 => plain (return .rdmsr)
  | 3, 3 => plain (return .rdpmc)
  | 3, 4 => plain (return .sysenter)
  | 3, 5 => plain (return .sysexit)
  | 4, _ => rm (.cmovcc cc)
  | 7, 7 => plain (return .emms)
  | 8, _ => plain do return .jcc cc (← readImmV c)
  | 9, _ => rm fun _ x => .setcc cc x
  | 10, 0 => plain (return .push (.seg .fs))
  | 10, 1 => plain (return .pop (.seg .fs))
  | 10, 2 => plain (return .cpuid)
  | 10, 3 => rm fun g x => .bt (.reg x g)
  | 10, 4 => plain do
      let (g, x) ← readModrm c.as32
      return .shld (.imm x g (← readByte))
  | 10, 5 => rm fun g x => .shld (.cl x g)
  | 10, 8 => plain (return .push (.seg .gs))
  | 10, 9 => plain (return .pop (.seg .gs))
  | 10, 10 => plain (return .rsm)
  | 10, 11 => rm fun g x => .bts (.reg x g)
  | 10, 12 => plain do
      let (g, x) ← readModrm c.as32
      return .shrd (.imm x g (← readByte))
  | 10, 13 => rm fun g x => .shrd (.cl x g)
  | 10, 14 => plain do
      let (g, x) ← readModrm c.as32
      group15 g x
  | 10, 15 => rm .imulRm
  | 11, 0 | 11, 1 => rm fun g x => .cmpxchg w x g
  | 11, 2 => mem .lss
  | 11, 3 => rm fun g x => .btr (.reg x g)
  | 11, 4 => mem .lfs
  | 11, 5 => mem .lgs
  | 11, 6 | 11, 7 => rm (.movzx w)
  | 11, 9 => rm fun _ _ => .group10
  | 11, 10 => plain do
      let (g, x) ← readModrm c.as32
      let n ← readByte
      match g.toNat with
      | 4 => return .bt (.imm x n) | 5 => return .bts (.imm x n) | 6 => return .btr (.imm x n)
      | 7 => return .btc (.imm x n) | _ => reject
  | 11, 11 => rm fun g x => .btc (.reg x g)
  | 11, 12 => rm .bsf
  | 11, 13 => rm .bsr
  | 11, 14 | 11, 15 => rm (.movsx w)
  | 12, 0 | 12, 1 => rm fun g x => .xadd w x g
  | 12, 3 => mem fun g m => .movnti m g
  | 12, 7 => plain do
      let (g, m) ← readModrmMem c.as32
      if g = 1 then return .cmpxchg8b m else reject
  | 12, 8 | 12, 9 | 12, 10 | 12, 11 | 12, 12 | 12, 13 | 12, 14 | 12, 15 => plain (return .bswap r)
  | _, _ => mapSimd c op

/-- The opcode maps on bytes that start at an opcode byte. -/
def decodeOpcode (c : DecodeCtx) : Cell := do
  let b ← readByte
  if b = 0x0F then map2 c (← readByte) else plain (map1 c b)

/-- The context after one more of the three mandatory prefixes. -/
def DecodeCtx.push (c : DecodeCtx) : Mand → DecodeCtx
  | .p66 => { c with opsz := true }
  | .pF3 => { c with rep := some true, mix := c.mix || c.rep == some false }
  | .pF2 => { c with rep := some false, mix := c.mix || c.rep == some true }

def mandOf (b : Byte) : Option Mand :=
  if b = 0x66 then some .p66 else if b = 0xF3 then some .pF3 else if b = 0xF2 then some .pF2 else none

/-- Whether a cell of the two-byte map has variants by mandatory prefix (R352, R353). -/
def simdCell (op : Byte) : Bool :=
  let col := op.toNat % 16
  match op.toNat / 16 with
  | 1 => decide (col < 8)
  | 2 => decide (8 ≤ col)
  | 7 => col != 7
  | 12 => col == 2 || col == 4 || col == 5 || col == 6
  | 5 | 6 | 13 | 14 | 15 => true
  | _ => false

/-- Whether the bytes after a mandatory prefix begin an opcode the prefix can be part of: 0F and a cell with variants, or
NOP after F3; none when they end too soon to say. -/
def mandApplies (m : Mand) (bs : List Byte) : Option Bool :=
  match bs with
  | [] => none
  | b :: rest =>
    if b = 0x0F then rest.head?.map simdCell else some (m = .pF3 && b = 0x90)

/-- The length read so far and the instruction, as the decoder's answer. -/
def DecodeResult.ofOpcode (start : Nat) (r : Except DecodeErr ((Option Mand × Instr) × List Byte)) : DecodeResult :=
  match r with
  | .ok ((_, i), rest) => .ok i (start - rest.length)
  | .error .more => .more
  | .error .bad => .bad
  | .error .mixed => .mixed

/-- Decode the instruction (or the prefix) that the bytes begin with (R305). -/
def decode (c : DecodeCtx) : List Byte → DecodeResult
  | [] => .more
  | b :: rest =>
    match prefixOf b with
    | none => .ofOpcode (rest.length + 1) ((decodeOpcode c).run (b :: rest))
    | some i =>
      match mandOf b with
      | none => .ok i 1
      | some m =>
        match mandApplies m rest with
        | none => .more
        | some false => .ok i 1
        | some true =>
          match (decodeOpcode (c.push m)).run rest with
          | .ok ((m', j), rest') =>
            if m' = some m ∨ j = .pause then .ok j (rest.length + 1 - rest'.length) else .ok i 1
          | .error .more => .more
          | .error .mixed => .mixed
          | .error .bad => .ok i 1

/-- The bytes of an instruction given as spec/opcode_table.json numbers its bits (its match strings have the first byte
leftmost, so the first byte is the most significant: INDEX, Conventions; log 29), and zeros after them up to the
longest instruction. -/
def wordBytes (nbits w : Nat) : List Byte :=
  (List.range (nbits / 8)).map (fun k => BitVec.ofNat 8 (w >>> (8 * (nbits / 8 - 1 - k))))
    ++ List.replicate (15 - nbits / 8) 0

/-- The instruction the decoder reads from a row's bits, under the 16-bit attributes that hold after reset. -/
def decodeTableWord (nbits w : Nat) : Option Instr :=
  match decode { os32 := false, as32 := false } (wordBytes nbits w) with
  | .ok i _ => some i
  | _ => none

/-! The encoder. -/

def enc16 (v : Word16) : List Byte := [v.extractLsb' 0 8, v.extractLsb' 8 8]

def enc32 (v : Word32) : List Byte := enc16 (v.extractLsb' 0 16) ++ enc16 (v.extractLsb' 16 16)

def encImm : Imm → List Byte
  | .i8 v => [v]
  | .i16 v => enc16 v
  | .i32 v => enc32 v

def encMOffs : MOffs → List Byte
  | .o16 o => enc16 o
  | .o32 o => enc32 o

def encFarPtr : FarPtr → List Byte
  | .p16 o s => enc16 o ++ enc16 s
  | .p32 o s => enc32 o ++ enc16 s

def modrm (md : BitVec 2) (g rm : RegNum) : Byte := md ++ g ++ rm

def Disp16.md : Disp16 → BitVec 2
  | .none => 0 | .d8 _ => 1 | .d16 _ => 2

def Disp32.md : Disp32 → BitVec 2
  | .none => 0 | .d8 _ => 1 | .d32 _ => 2

def encDisp16 : Disp16 → List Byte
  | .none => [] | .d8 d => [d] | .d16 d => enc16 d

def encDisp32 : Disp32 → List Byte
  | .none => [] | .d8 d => [d] | .d32 d => enc32 d

/-- ModR/M, SIB and displacement of a memory operand (R341 to R343). -/
def encMem (g : RegNum) : MemRef → List Byte
  | .base16 rm d => modrm d.md g rm :: encDisp16 d
  | .abs16 d => modrm 0 g 6 :: enc16 d
  | .base32 rm d => modrm d.md g rm :: encDisp32 d
  | .abs32 d => modrm 0 g 5 :: enc32 d
  | .sib sc ix b d => modrm d.md g 4 :: modrm sc ix b :: encDisp32 d
  | .sibAbs sc ix d => modrm 0 g 4 :: modrm sc ix 5 :: enc32 d

def encRm (g : RegNum) : Rm → List Byte
  | .reg r => [modrm 3 g r]
  | .mem m => encMem g m

def Seg.num : Seg → RegNum
  | .es => 0 | .cs => 1 | .ss => 2 | .ds => 3 | .fs => 4 | .gs => 5

/-- An opcode byte with its w bit in bit 0 (R322). -/
def opW (base : Byte) (w : Bool) : Byte := if w then base ||| 1 else base

/-- An opcode byte with a register number in its low bits (R321). -/
def opR (base : Byte) (r : RegNum) : Byte := base ||| r.setWidth 8

/-- An opcode byte with tttn in its low bits (R326). -/
def opC (base : Byte) (cc : Cond) : Byte := base ||| cc.setWidth 8

def encAlu (k : RegNum) : AluForm → List Byte
  | .rmReg w rm r => opW (k.setWidth 8 <<< 3) w :: encRm r rm
  | .regRm w r rm => opW (k.setWidth 8 <<< 3 ||| 2) w :: encRm r rm
  | .accImm imm => opW (k.setWidth 8 <<< 3 ||| 4) (!imm.isByte) :: encImm imm
  | .rmImm s w rm imm => opW (if s then 0x82 else 0x80) w :: (encRm k rm ++ encImm imm)

def encInc (k : RegNum) : IncForm → List Byte
  | .rm w x => opW 0xFE w :: encRm k x
  | .reg r => [opR (0x40 ||| k.setWidth 8 <<< 3) r]

def encShift (k : RegNum) : ShiftForm → List Byte
  | .one w x => opW 0xD0 w :: encRm k x
  | .cl w x => opW 0xD2 w :: encRm k x
  | .imm w x n => opW 0xC0 w :: (encRm k x ++ [n])

def encDbl (op : Byte) : DblForm → List Byte
  | .imm x r n => 0x0F :: op :: (encRm r x ++ [n])
  | .cl x r => 0x0F :: (op ||| 1) :: encRm r x

def encBit (op : Byte) (k : RegNum) : BitForm → List Byte
  | .imm x n => 0x0F :: 0xBA :: (encRm k x ++ [n])
  | .reg x r => 0x0F :: op :: encRm r x

def encTest : TestForm → List Byte
  | .rmReg w x r => opW 0x84 w :: encRm r x
  | .rmImm x v => opW 0xF6 (!v.isByte) :: (encRm 0 x ++ encImm v)
  | .accImm v => opW 0xA8 (!v.isByte) :: encImm v

def encMov : MovForm → List Byte
  | .rmReg w x r => opW 0x88 w :: encRm r x
  | .regRm w r x => opW 0x8A w :: encRm r x
  | .rmImm x v => opW 0xC6 (!v.isByte) :: (encRm 0 x ++ encImm v)
  | .regImm r v => opR (if v.isByte then 0xB0 else 0xB8) r :: encImm v

def encXchg : XchgForm → List Byte
  | .rmReg w x r => opW 0x86 w :: encRm r x
  | .acc r => [opR 0x90 r]

def encPushSeg : Seg → List Byte
  | .es => [0x06] | .cs => [0x0E] | .ss => [0x16] | .ds => [0x1E] | .fs => [0x0F, 0xA0] | .gs => [0x0F, 0xA8]

def encPopSeg : Seg → List Byte
  | .es => [0x07] | .cs => [] | .ss => [0x17] | .ds => [0x1F] | .fs => [0x0F, 0xA1] | .gs => [0x0F, 0xA9]

def encPush : PushForm → List Byte
  | .rm x => 0xFF :: encRm 6 x
  | .reg r => [opR 0x50 r]
  | .imm v => (if v.isByte then 0x6A else 0x68) :: encImm v
  | .seg sr => encPushSeg sr

def encPop : PopForm → List Byte
  | .rm x => 0x8F :: encRm 0 x
  | .reg r => [opR 0x58 r]
  | .seg sr => encPopSeg sr

def encPort (opImm opDx : Byte) : PortForm → List Byte
  | .imm w p => [opW opImm w, p]
  | .dx w => [opW opDx w]

def encNear (op8 opV : Byte) (k : RegNum) : NearForm → List Byte
  | .rel d => (if d.isByte then op8 else opV) :: encImm d
  | .rm x => 0xFF :: encRm k x

def encFar (op : Byte) (k : RegNum) : FarForm → List Byte
  | .ptr p => op :: encFarPtr p
  | .mem x => 0xFF :: encMem k x

def encRet (opN op : Byte) : Option Word16 → List Byte
  | some n => opN :: enc16 n
  | none => [op]

/-- x87 arithmetic: the reg field of the memory and D8 rows, and the second byte's field of the DC row (R372). -/
def encFArith (k kd : RegNum) : FArith → List Byte
  | .m32 m => 0xD8 :: encMem k m
  | .m64 m => 0xDC :: encMem k m
  | .st0 i => [0xD8, modrm 3 k i]
  | .sti i => [0xDC, modrm 3 kd i]

def encFReal (op32 op64 : Byte) (k : RegNum) (opSt : Byte) (kSt : RegNum) : FReal → List Byte
  | .m32 m => op32 :: encMem k m
  | .m64 m => op64 :: encMem k m
  | .st i => [opSt, modrm 3 kSt i]

def encFReal80 (k k80 : RegNum) (opSt : Byte) (kSt : RegNum) : FReal80 → List Byte
  | .m32 m => 0xD9 :: encMem k m
  | .m64 m => 0xDD :: encMem k m
  | .m80 m => 0xDB :: encMem k80 m
  | .st i => [opSt, modrm 3 kSt i]

def encFInt (op16 op32 : Byte) (k : RegNum) : FInt → List Byte
  | .m16 m => op16 :: encMem k m
  | .m32 m => op32 :: encMem k m

def encFInt64 (k : RegNum) (op64 : Byte) (k64 : RegNum) : FInt64 → List Byte
  | .m16 m => 0xDF :: encMem k m
  | .m32 m => 0xDB :: encMem k m
  | .m64 m => op64 :: encMem k64 m

def encPk (op : Byte) : Pk → List Byte
  | .mm d x => 0x0F :: op :: encRm d x
  | .xmm d x => 0x66 :: 0x0F :: op :: encRm d x

def encPkShift (op opImm : Byte) (k : RegNum) : PkShift → List Byte
  | .by o => encPk op o
  | .immMm r n => [0x0F, opImm, modrm 3 k r, n]
  | .immXmm r n => [0x66, 0x0F, opImm, modrm 3 k r, n]

def encPkToGpr (op : Byte) : PkToGpr → List Byte
  | .mm d r => [0x0F, op, modrm 3 d r]
  | .xmm d r => [0x66, 0x0F, op, modrm 3 d r]

def encMovd : MovdForm → List Byte
  | .toMm d x => 0x0F :: 0x6E :: encRm d x
  | .fromMm x r => 0x0F :: 0x7E :: encRm r x
  | .toXmm d x => 0x66 :: 0x0F :: 0x6E :: encRm d x
  | .fromXmm x r => 0x66 :: 0x0F :: 0x7E :: encRm r x

def encMovq : MovqForm → List Byte
  | .toMm d x => 0x0F :: 0x6F :: encRm d x
  | .fromMm x r => 0x0F :: 0x7F :: encRm r x
  | .toXmm d x => 0xF3 :: 0x0F :: 0x7E :: encRm d x
  | .fromXmm x r => 0x66 :: 0x0F :: 0xD6 :: encRm r x

/-- A two-byte opcode behind its mandatory prefix, if it has one (R316). -/
def encMand (m : Option Mand) (op : Byte) (tail : List Byte) : List Byte :=
  match m with
  | none => 0x0F :: op :: tail
  | some .p66 => 0x66 :: 0x0F :: op :: tail
  | some .pF3 => 0xF3 :: 0x0F :: op :: tail
  | some .pF2 => 0xF2 :: 0x0F :: op :: tail

def encXMove (m : Option Mand) (opLoad opStore : Byte) : XMove → List Byte
  | .load d x => encMand m opLoad (encRm d x)
  | .store x r => encMand m opStore (encRm r x)

def encXHalf (m : Option Mand) (opLoad : Byte) : XHalf → List Byte
  | .load d x => encMand m opLoad (encMem d x)
  | .store x r => encMand m (opLoad ||| 1) (encMem r x)

/-- The prefix byte of ES, CS, SS or DS, by its number (R311). -/
def opSeg (k : BitVec 2) : Byte := 0x26 ||| k.setWidth 8 <<< 3

/-- An x87 instruction without operands, of the D9 row: bits 5:3 and 2:0 of the second byte (R372). -/
def encD9 (g i : RegNum) : List Byte := [0xD9, modrm 3 g i]

/-- The bytes of a well-formed instruction (30_encoding sections 6 to 9; R333). -/
def encode : Instr → List Byte
  | .lock => [0xF0]
  | .repne => [0xF2]
  | .rep => [0xF3]
  | .csOverride => [opSeg 1]
  | .ssOverride => [opSeg 2]
  | .dsOverride => [opSeg 3]
  | .esOverride => [opSeg 0]
  | .fsOverride => [0x64]
  | .gsOverride => [0x65]
  | .opSizeOverride => [0x66]
  | .addrSizeOverride => [0x67]
  | .add f => encAlu 0 f
  | .or f => encAlu 1 f
  | .adc f => encAlu 2 f
  | .sbb f => encAlu 3 f
  | .and f => encAlu 4 f
  | .sub f => encAlu 5 f
  | .xor f => encAlu 6 f
  | .cmp f => encAlu 7 f
  | .inc f => encInc 0 f
  | .dec f => encInc 1 f
  | .not w rm => opW 0xF6 w :: encRm 2 rm
  | .neg w rm => opW 0xF6 w :: encRm 3 rm
  | .mul w rm => opW 0xF6 w :: encRm 4 rm
  | .div w rm => opW 0xF6 w :: encRm 6 rm
  | .idiv w rm => opW 0xF6 w :: encRm 7 rm
  | .test f => encTest f
  | .imulAcc w rm => opW 0xF6 w :: encRm 5 rm
  | .imulRm r rm => 0x0F :: 0xAF :: encRm r rm
  | .imulImm r rm imm => (if imm.isByte then 0x6B else 0x69) :: (encRm r rm ++ encImm imm)
  | .rol f => encShift 0 f
  | .ror f => encShift 1 f
  | .rcl f => encShift 2 f
  | .rcr f => encShift 3 f
  | .shl f => encShift 4 f
  | .shr f => encShift 5 f
  | .sar f => encShift 7 f
  | .shld f => encDbl 0xA4 f
  | .shrd f => encDbl 0xAC f
  | .bt f => encBit 0xA3 4 f
  | .bts f => encBit 0xAB 5 f
  | .btr f => encBit 0xB3 6 f
  | .btc f => encBit 0xBB 7 f
  | .bsf r rm => 0x0F :: 0xBC :: encRm r rm
  | .bsr r rm => 0x0F :: 0xBD :: encRm r rm
  | .bswap r => [0x0F, opR 0xC8 r]
  | .setcc cc rm => 0x0F :: opC 0x90 cc :: encRm 0 rm
  | .xadd w rm r => 0x0F :: opW 0xC0 w :: encRm r rm
  | .cmpxchg w rm r => 0x0F :: opW 0xB0 w :: encRm r rm
  | .cmpxchg8b m => 0x0F :: 0xC7 :: encMem 1 m
  | .clc => [opW 0xF8 false]
  | .stc => [opW 0xF8 true]
  | .cmc => [0xF5]
  | .cld => [opW 0xFC false]
  | .std => [opW 0xFC true]
  | .lahf => [opW 0x9E true]
  | .sahf => [opW 0x9E false]
  | .aaa => [0x37]
  | .aas => [0x3F]
  | .daa => [0x27]
  | .das => [0x2F]
  | .aam n => [0xD4, n]
  | .aad n => [0xD5, n]
  | .mov f => encMov f
  | .movFromOffs w o => opW 0xA0 w :: encMOffs o
  | .movToOffs w o => opW 0xA2 w :: encMOffs o
  | .movToSeg sr rm => 0x8E :: encRm sr.num rm
  | .movFromSeg rm sr => 0x8C :: encRm sr.num rm
  | .movsx w r rm => 0x0F :: opW 0xBE w :: encRm r rm
  | .movzx w r rm => 0x0F :: opW 0xB6 w :: encRm r rm
  | .xchg f => encXchg f
  | .nop => [0x90]
  | .lea r m => 0x8D :: encMem r m
  | .cmovcc cc r rm => 0x0F :: opC 0x40 cc :: encRm r rm
  | .cbw => [opW 0x98 false]
  | .cwd => [opW 0x98 true]
  | .xlat => [0xD7]
  | .push f => encPush f
  | .pop f => encPop f
  | .pusha => [opW 0x60 false]
  | .popa => [opW 0x60 true]
  | .pushf => [0x9C]
  | .popf => [0x9D]
  | .enter size level => 0xC8 :: (enc16 size ++ [level])
  | .leave => [0xC9]
  | .lds r m => 0xC5 :: encMem r m
  | .les r m => 0xC4 :: encMem r m
  | .lss r m => 0x0F :: 0xB2 :: encMem r m
  | .lfs r m => 0x0F :: 0xB4 :: encMem r m
  | .lgs r m => 0x0F :: 0xB5 :: encMem r m
  | .movs w => [opW 0xA4 w]
  | .cmps w => [opW 0xA6 w]
  | .stos w => [opW 0xAA w]
  | .lods w => [opW 0xAC w]
  | .scas w => [opW 0xAE w]
  | .ins w => [opW 0x6C w]
  | .outs w => [opW 0x6E w]
  | .inPort f => encPort 0xE4 0xEC f
  | .outPort f => encPort 0xE6 0xEE f
  | .jmp f => encNear 0xEB 0xE9 4 f
  | .jmpFar f => encFar 0xEA 5 f
  | .jcc cc d => (if d.isByte then [opC 0x70 cc] else [0x0F, opC 0x80 cc]) ++ encImm d
  | .jcxz d => [0xE3, d]
  | .loop d => [0xE2, d]
  | .loope d => [0xE1, d]
  | .loopne d => [0xE0, d]
  | .call f => encNear 0xE8 0xE8 2 f
  | .callFar f => encFar 0x9A 3 f
  | .ret n => encRet 0xC2 0xC3 n
  | .retf n => encRet 0xCA 0xCB n
  | .int n => [0xCD, n]
  | .int3 => [0xCC]
  | .into => [0xCE]
  | .iret => [0xCF]
  | .bound r m => 0x62 :: encMem r m
  | .sysenter => [0x0F, 0x34]
  | .sysexit => [0x0F, 0x35]
  | .movToCr n r => [0x0F, 0x22, modrm 3 n r]
  | .movFromCr n r => [0x0F, 0x20, modrm 3 n r]
  | .movToDr n r => [0x0F, 0x23, modrm 3 n r]
  | .movFromDr n r => [0x0F, 0x21, modrm 3 n r]
  | .movTest t n r => [0x0F, if t then 0x26 else 0x24, modrm 3 n r]
  | .sgdt m => 0x0F :: 0x01 :: encMem 0 m
  | .sidt m => 0x0F :: 0x01 :: encMem 1 m
  | .lgdt m => 0x0F :: 0x01 :: encMem 2 m
  | .lidt m => 0x0F :: 0x01 :: encMem 3 m
  | .invlpg m => 0x0F :: 0x01 :: encMem 7 m
  | .smsw rm => 0x0F :: 0x01 :: encRm 4 rm
  | .lmsw rm => 0x0F :: 0x01 :: encRm 6 rm
  | .sldt rm => 0x0F :: 0x00 :: encRm 0 rm
  | .str rm => 0x0F :: 0x00 :: encRm 1 rm
  | .lldt rm => 0x0F :: 0x00 :: encRm 2 rm
  | .ltr rm => 0x0F :: 0x00 :: encRm 3 rm
  | .verr rm => 0x0F :: 0x00 :: encRm 4 rm
  | .verw rm => 0x0F :: 0x00 :: encRm 5 rm
  | .lar r rm => 0x0F :: 0x02 :: encRm r rm
  | .lsl r rm => 0x0F :: 0x03 :: encRm r rm
  | .arpl rm r => 0x63 :: encRm r rm
  | .monitor => [0x0F, 0x01, 0xC8]
  | .mwait => [0x0F, 0x01, 0xC9]
  | .clts => [0x0F, 0x06]
  | .invd => [0x0F, 0x08]
  | .wbinvd => [0x0F, 0x09]
  | .ud2 => [0x0F, 0x0B]
  | .group10 => [0x0F, 0xB9, modrm 3 0 0]
  | .wrmsr => [0x0F, 0x30]
  | .rdtsc => [0x0F, 0x31]
  | .rdmsr => [0x0F, 0x32]
  | .rdpmc => [0x0F, 0x33]
  | .cpuid => [0x0F, 0xA2]
  | .rsm => [0x0F, 0xAA]
  | .cli => [0xFA]
  | .sti => [0xFB]
  | .hlt => [0xF4]
  | .fadd f => encFArith 0 0 f
  | .fmul f => encFArith 1 1 f
  | .fsub f => encFArith 4 5 f
  | .fsubr f => encFArith 5 4 f
  | .fdiv f => encFArith 6 7 f
  | .fdivr f => encFArith 7 6 f
  | .fcom f => encFReal 0xD8 0xDC 2 0xD8 2 f
  | .fcomp f => encFReal 0xD8 0xDC 3 0xD8 3 f
  | .fiadd f => encFInt 0xDE 0xDA 0 f
  | .fimul f => encFInt 0xDE 0xDA 1 f
  | .ficom f => encFInt 0xDE 0xDA 2 f
  | .ficomp f => encFInt 0xDE 0xDA 3 f
  | .fisub f => encFInt 0xDE 0xDA 4 f
  | .fisubr f => encFInt 0xDE 0xDA 5 f
  | .fidiv f => encFInt 0xDE 0xDA 6 f
  | .fidivr f => encFInt 0xDE 0xDA 7 f
  | .fld f => encFReal80 0 5 0xD9 0 f
  | .fst f => encFReal 0xD9 0xDD 2 0xDD 2 f
  | .fstp f => encFReal80 3 7 0xDD 3 f
  | .fild f => encFInt64 0 0xDF 5 f
  | .fist f => encFInt 0xDF 0xDB 2 f
  | .fistp f => encFInt64 3 0xDF 7 f
  | .fisttp f => encFInt64 1 0xDD 1 f
  | .fbld m => 0xDF :: encMem 4 m
  | .fbstp m => 0xDF :: encMem 6 m
  | .fldenv m => 0xD9 :: encMem 4 m
  | .fldcw m => 0xD9 :: encMem 5 m
  | .fnstenv m => 0xD9 :: encMem 6 m
  | .fnstcw m => 0xD9 :: encMem 7 m
  | .frstor m => 0xDD :: encMem 4 m
  | .fnsave m => 0xDD :: encMem 6 m
  | .fnstsw f => match f with | .mem m => 0xDD :: encMem 7 m | .ax => [0xDF, 0xE0]
  | .faddp i => [0xDE, modrm 3 0 i]
  | .fmulp i => [0xDE, modrm 3 1 i]
  | .fsubp i => [0xDE, modrm 3 5 i]
  | .fsubrp i => [0xDE, modrm 3 4 i]
  | .fdivp i => [0xDE, modrm 3 7 i]
  | .fdivrp i => [0xDE, modrm 3 6 i]
  | .fcompp => [0xDE, 0xD9]
  | .fucompp => [0xDA, 0xE9]
  | .fxch i => [0xD9, modrm 3 1 i]
  | .ffree i => [0xDD, modrm 3 0 i]
  | .fucom i => [0xDD, modrm 3 4 i]
  | .fucomp i => [0xDD, modrm 3 5 i]
  | .fucomi i => [0xDB, modrm 3 5 i]
  | .fcomi i => [0xDB, modrm 3 6 i]
  | .fucomip i => [0xDF, modrm 3 5 i]
  | .fcomip i => [0xDF, modrm 3 6 i]
  | .fcmovb i => [0xDA, modrm 3 0 i]
  | .fcmove i => [0xDA, modrm 3 1 i]
  | .fcmovbe i => [0xDA, modrm 3 2 i]
  | .fcmovu i => [0xDA, modrm 3 3 i]
  | .fcmovnb i => [0xDB, modrm 3 0 i]
  | .fcmovne i => [0xDB, modrm 3 1 i]
  | .fcmovnbe i => [0xDB, modrm 3 2 i]
  | .fcmovnu i => [0xDB, modrm 3 3 i]
  | .fnop => encD9 2 0
  | .fchs => encD9 4 0
  | .fabs => encD9 4 1
  | .ftst => encD9 4 4
  | .fxam => encD9 4 5
  | .fld1 => encD9 5 0
  | .fldl2t => encD9 5 1
  | .fldl2e => encD9 5 2
  | .fldpi => encD9 5 3
  | .fldlg2 => encD9 5 4
  | .fldln2 => encD9 5 5
  | .fldz => encD9 5 6
  | .f2xm1 => encD9 6 0
  | .fyl2x => encD9 6 1
  | .fptan => encD9 6 2
  | .fpatan => encD9 6 3
  | .fxtract => encD9 6 4
  | .fprem1 => encD9 6 5
  | .fdecstp => encD9 6 6
  | .fincstp => encD9 6 7
  | .fprem => encD9 7 0
  | .fyl2xp1 => encD9 7 1
  | .fsqrt => encD9 7 2
  | .fsincos => encD9 7 3
  | .frndint => encD9 7 4
  | .fscale => encD9 7 5
  | .fsin => encD9 7 6
  | .fcos => encD9 7 7
  | .fnclex => [0xDB, 0xE2]
  | .fninit => [0xDB, 0xE3]
  | .fwait => [0x9B]
  | .fxsave m => 0x0F :: 0xAE :: encMem 0 m
  | .fxrstor m => 0x0F :: 0xAE :: encMem 1 m
  | .emms => [0x0F, 0x77]
  | .movd f => encMovd f
  | .movq f => encMovq f
  | .packsswb o => encPk 0x63 o
  | .packssdw o => encPk 0x6B o
  | .packuswb o => encPk 0x67 o
  | .punpckhbw o => encPk 0x68 o
  | .punpckhwd o => encPk 0x69 o
  | .punpckhdq o => encPk 0x6A o
  | .punpcklbw o => encPk 0x60 o
  | .punpcklwd o => encPk 0x61 o
  | .punpckldq o => encPk 0x62 o
  | .paddb o => encPk 0xFC o
  | .paddw o => encPk 0xFD o
  | .paddd o => encPk 0xFE o
  | .paddq o => encPk 0xD4 o
  | .paddsb o => encPk 0xEC o
  | .paddsw o => encPk 0xED o
  | .paddusb o => encPk 0xDC o
  | .paddusw o => encPk 0xDD o
  | .psubb o => encPk 0xF8 o
  | .psubw o => encPk 0xF9 o
  | .psubd o => encPk 0xFA o
  | .psubq o => encPk 0xFB o
  | .psubsb o => encPk 0xE8 o
  | .psubsw o => encPk 0xE9 o
  | .psubusb o => encPk 0xD8 o
  | .psubusw o => encPk 0xD9 o
  | .pmaddwd o => encPk 0xF5 o
  | .pmulhuw o => encPk 0xE4 o
  | .pmulhw o => encPk 0xE5 o
  | .pmullw o => encPk 0xD5 o
  | .pmuludq o => encPk 0xF4 o
  | .pcmpeqb o => encPk 0x74 o
  | .pcmpeqw o => encPk 0x75 o
  | .pcmpeqd o => encPk 0x76 o
  | .pcmpgtb o => encPk 0x64 o
  | .pcmpgtw o => encPk 0x65 o
  | .pcmpgtd o => encPk 0x66 o
  | .pand o => encPk 0xDB o
  | .pandn o => encPk 0xDF o
  | .por o => encPk 0xEB o
  | .pxor o => encPk 0xEF o
  | .pavgb o => encPk 0xE0 o
  | .pavgw o => encPk 0xE3 o
  | .pmaxsw o => encPk 0xEE o
  | .pmaxub o => encPk 0xDE o
  | .pminsw o => encPk 0xEA o
  | .pminub o => encPk 0xDA o
  | .psadbw o => encPk 0xF6 o
  | .psllw f => encPkShift 0xF1 0x71 6 f
  | .pslld f => encPkShift 0xF2 0x72 6 f
  | .psllq f => encPkShift 0xF3 0x73 6 f
  | .psraw f => encPkShift 0xE1 0x71 4 f
  | .psrad f => encPkShift 0xE2 0x72 4 f
  | .psrlw f => encPkShift 0xD1 0x71 2 f
  | .psrld f => encPkShift 0xD2 0x72 2 f
  | .psrlq f => encPkShift 0xD3 0x73 2 f
  | .pslldq r n => [0x66, 0x0F, 0x73, modrm 3 7 r, n]
  | .psrldq r n => [0x66, 0x0F, 0x73, modrm 3 3 r, n]
  | .punpckhqdq d s => encMand (some .p66) 0x6D (encRm d s)
  | .punpcklqdq d s => encMand (some .p66) 0x6C (encRm d s)
  | .pextrw o n => encPkToGpr 0xC5 o ++ [n]
  | .pinsrw o n => encPk 0xC4 o ++ [n]
  | .pmovmskb o => encPkToGpr 0xD7 o
  | .pshufw d s n => encMand none 0x70 (encRm d s ++ [n])
  | .pshufd d s n => encMand (some .p66) 0x70 (encRm d s ++ [n])
  | .pshufhw d s n => encMand (some .pF3) 0x70 (encRm d s ++ [n])
  | .pshuflw d s n => encMand (some .pF2) 0x70 (encRm d s ++ [n])
  | .maskmovq d s => encMand none 0xF7 [modrm 3 d s]
  | .maskmovdqu d s => encMand (some .p66) 0xF7 [modrm 3 d s]
  | .movntq m s => encMand none 0xE7 (encMem s m)
  | .movntdq m s => encMand (some .p66) 0xE7 (encMem s m)
  | .movntps m s => encMand none 0x2B (encMem s m)
  | .movntpd m s => encMand (some .p66) 0x2B (encMem s m)
  | .movnti m r => 0x0F :: 0xC3 :: encMem r m
  | .prefetchnta m => 0x0F :: 0x18 :: encMem 0 m
  | .prefetcht0 m => 0x0F :: 0x18 :: encMem 1 m
  | .prefetcht1 m => 0x0F :: 0x18 :: encMem 2 m
  | .prefetcht2 m => 0x0F :: 0x18 :: encMem 3 m
  | .clflush m => 0x0F :: 0xAE :: encMem 7 m
  | .sfence => [0x0F, 0xAE, 0xF8]
  | .lfence => [0x0F, 0xAE, 0xE8]
  | .mfence => [0x0F, 0xAE, 0xF0]
  | .pause => [0xF3, 0x90]
  | .movdqa f => encXMove (some .p66) 0x6F 0x7F f
  | .movdqu f => encXMove (some .pF3) 0x6F 0x7F f
  | .movq2dq d s => encMand (some .pF3) 0xD6 [modrm 3 d s]
  | .movdq2q d s => encMand (some .pF2) 0xD6 [modrm 3 d s]
  | .movaps f => encXMove none 0x28 0x29 f
  | .movups f => encXMove none 0x10 0x11 f
  | .movapd f => encXMove (some .p66) 0x28 0x29 f
  | .movupd f => encXMove (some .p66) 0x10 0x11 f
  | .movss f => encXMove (some .pF3) 0x10 0x11 f
  | .movsd f => encXMove (some .pF2) 0x10 0x11 f
  | .movlps f => encXHalf none 0x12 f
  | .movhps f => encXHalf none 0x16 f
  | .movlpd f => encXHalf (some .p66) 0x12 f
  | .movhpd f => encXHalf (some .p66) 0x16 f
  | .movhlps d s => [0x0F, 0x12, modrm 3 d s]
  | .movlhps d s => [0x0F, 0x16, modrm 3 d s]
  | .movmskps d s => encMand none 0x50 [modrm 3 d s]
  | .movmskpd d s => encMand (some .p66) 0x50 [modrm 3 d s]
  | .addps d s => encMand none 0x58 (encRm d s)
  | .addpd d s => encMand (some .p66) 0x58 (encRm d s)
  | .addss d s => encMand (some .pF3) 0x58 (encRm d s)
  | .addsd d s => encMand (some .pF2) 0x58 (encRm d s)
  | .subps d s => encMand none 0x5C (encRm d s)
  | .subpd d s => encMand (some .p66) 0x5C (encRm d s)
  | .subss d s => encMand (some .pF3) 0x5C (encRm d s)
  | .subsd d s => encMand (some .pF2) 0x5C (encRm d s)
  | .mulps d s => encMand none 0x59 (encRm d s)
  | .mulpd d s => encMand (some .p66) 0x59 (encRm d s)
  | .mulss d s => encMand (some .pF3) 0x59 (encRm d s)
  | .mulsd d s => encMand (some .pF2) 0x59 (encRm d s)
  | .divps d s => encMand none 0x5E (encRm d s)
  | .divpd d s => encMand (some .p66) 0x5E (encRm d s)
  | .divss d s => encMand (some .pF3) 0x5E (encRm d s)
  | .divsd d s => encMand (some .pF2) 0x5E (encRm d s)
  | .sqrtps d s => encMand none 0x51 (encRm d s)
  | .sqrtpd d s => encMand (some .p66) 0x51 (encRm d s)
  | .sqrtss d s => encMand (some .pF3) 0x51 (encRm d s)
  | .sqrtsd d s => encMand (some .pF2) 0x51 (encRm d s)
  | .maxps d s => encMand none 0x5F (encRm d s)
  | .maxpd d s => encMand (some .p66) 0x5F (encRm d s)
  | .maxss d s => encMand (some .pF3) 0x5F (encRm d s)
  | .maxsd d s => encMand (some .pF2) 0x5F (encRm d s)
  | .minps d s => encMand none 0x5D (encRm d s)
  | .minpd d s => encMand (some .p66) 0x5D (encRm d s)
  | .minss d s => encMand (some .pF3) 0x5D (encRm d s)
  | .minsd d s => encMand (some .pF2) 0x5D (encRm d s)
  | .rcpps d s => encMand none 0x53 (encRm d s)
  | .rcpss d s => encMand (some .pF3) 0x53 (encRm d s)
  | .rsqrtps d s => encMand none 0x52 (encRm d s)
  | .rsqrtss d s => encMand (some .pF3) 0x52 (encRm d s)
  | .andps d s => encMand none 0x54 (encRm d s)
  | .andpd d s => encMand (some .p66) 0x54 (encRm d s)
  | .andnps d s => encMand none 0x55 (encRm d s)
  | .andnpd d s => encMand (some .p66) 0x55 (encRm d s)
  | .orps d s => encMand none 0x56 (encRm d s)
  | .orpd d s => encMand (some .p66) 0x56 (encRm d s)
  | .xorps d s => encMand none 0x57 (encRm d s)
  | .xorpd d s => encMand (some .p66) 0x57 (encRm d s)
  | .unpckhps d s => encMand none 0x15 (encRm d s)
  | .unpckhpd d s => encMand (some .p66) 0x15 (encRm d s)
  | .unpcklps d s => encMand none 0x14 (encRm d s)
  | .unpcklpd d s => encMand (some .p66) 0x14 (encRm d s)
  | .comiss d s => encMand none 0x2F (encRm d s)
  | .comisd d s => encMand (some .p66) 0x2F (encRm d s)
  | .ucomiss d s => encMand none 0x2E (encRm d s)
  | .ucomisd d s => encMand (some .p66) 0x2E (encRm d s)
  | .cmpps d s n => encMand none 0xC2 (encRm d s ++ [n])
  | .cmppd d s n => encMand (some .p66) 0xC2 (encRm d s ++ [n])
  | .cmpss d s n => encMand (some .pF3) 0xC2 (encRm d s ++ [n])
  | .cmpsd d s n => encMand (some .pF2) 0xC2 (encRm d s ++ [n])
  | .shufps d s n => encMand none 0xC6 (encRm d s ++ [n])
  | .shufpd d s n => encMand (some .p66) 0xC6 (encRm d s ++ [n])
  | .cvtpi2ps d s => encMand none 0x2A (encRm d s)
  | .cvtps2pi d s => encMand none 0x2D (encRm d s)
  | .cvttps2pi d s => encMand none 0x2C (encRm d s)
  | .cvtsi2ss d s => encMand (some .pF3) 0x2A (encRm d s)
  | .cvtss2si d s => encMand (some .pF3) 0x2D (encRm d s)
  | .cvttss2si d s => encMand (some .pF3) 0x2C (encRm d s)
  | .cvtpi2pd d s => encMand (some .p66) 0x2A (encRm d s)
  | .cvtpd2pi d s => encMand (some .p66) 0x2D (encRm d s)
  | .cvttpd2pi d s => encMand (some .p66) 0x2C (encRm d s)
  | .cvtsi2sd d s => encMand (some .pF2) 0x2A (encRm d s)
  | .cvtsd2si d s => encMand (some .pF2) 0x2D (encRm d s)
  | .cvttsd2si d s => encMand (some .pF2) 0x2C (encRm d s)
  | .cvtpd2ps d s => encMand (some .p66) 0x5A (encRm d s)
  | .cvtps2pd d s => encMand none 0x5A (encRm d s)
  | .cvtsd2ss d s => encMand (some .pF2) 0x5A (encRm d s)
  | .cvtss2sd d s => encMand (some .pF3) 0x5A (encRm d s)
  | .cvtpd2dq d s => encMand (some .pF2) 0xE6 (encRm d s)
  | .cvttpd2dq d s => encMand (some .p66) 0xE6 (encRm d s)
  | .cvtdq2pd d s => encMand (some .pF3) 0xE6 (encRm d s)
  | .cvtps2dq d s => encMand (some .p66) 0x5B (encRm d s)
  | .cvttps2dq d s => encMand (some .pF3) 0x5B (encRm d s)
  | .cvtdq2ps d s => encMand none 0x5B (encRm d s)
  | .ldmxcsr m => 0x0F :: 0xAE :: encMem 2 m
  | .stmxcsr m => 0x0F :: 0xAE :: encMem 3 m
  | .addsubpd d s => encMand (some .p66) 0xD0 (encRm d s)
  | .addsubps d s => encMand (some .pF2) 0xD0 (encRm d s)
  | .haddpd d s => encMand (some .p66) 0x7C (encRm d s)
  | .haddps d s => encMand (some .pF2) 0x7C (encRm d s)
  | .hsubpd d s => encMand (some .p66) 0x7D (encRm d s)
  | .hsubps d s => encMand (some .pF2) 0x7D (encRm d s)
  | .movddup d s => encMand (some .pF2) 0x12 (encRm d s)
  | .movshdup d s => encMand (some .pF3) 0x16 (encRm d s)
  | .movsldup d s => encMand (some .pF3) 0x12 (encRm d s)
  | .lddqu d m => encMand (some .pF2) 0xF0 (encMem d m)

end Sys2Proof
end
end

