-- ==== Sys2Proof/Config.lean ====
section
/-! DEFINITION. What an implementation fixes (00_scope R9; 93 Part 3) and the free values (92 D6; 93 Part 1). A constant
with a body is a parameter at the value 92 D13 and D28 give (log 27); a constant without one is open, and no proof can
see its value (log 3). -/
namespace Sys2Proof.Config

/-! Free values: bit strings no rule fixes, read with the draw counter of State (log 3). -/

/-- The free value of width w that the n-th draw gives. -/
opaque freeBits (w n : Nat) : BitVec w

/-! Parameters at their default (92 D10, D13, D28): a family 0FH, model 03H processor with one logical processor, on a
platform whose memory is RAM everywhere. -/

/-- CPUID function 1, EAX: the processor signature (43 R830's example; log 11). -/
def signature : Word32 := 0x00000F34

/-- 00_scope R9. -/
def hasSse : Bool := true
def hasSse2 : Bool := true
def hasSse3 : Bool := true
def hasFxsr : Bool := true
/-- MOV to and from test registers execute (10_state R86). -/
def hasTestRegs : Bool := false
/-- MSR_IQ_ESCR0 and MSR_IQ_ESCR1 exist (10_state R128). -/
def hasIqEscr : Bool := false
/-- Number of last-branch records, 4 or 16 (10_state R123 to R126). -/
def lbrDepth : Nat := 16
/-- Logical processors in the package (10_state R180). -/
def numLogical : Nat := 1

/-- What lies at a physical address (20_memory R202); RAM is what no region names. -/
inductive RegionKind where
  | rom | device | absent
  deriving DecidableEq, Repr

/-- A range of physical addresses that is not RAM. -/
structure Region where
  base : Nat
  size : Nat
  kind : RegionKind
  deriving DecidableEq, Repr

/-- PLATFORM_MEMORY (20_memory R202): the regions that are not RAM; the default of 92 D10 has none (log 1). -/
def platformMemory : List Region := []

/-! Open parameters. -/

/-- Of several logical processors, whether this one is the bootstrap processor (70 R1704). -/
opaque bootstrapChosen : Bool
/-- The first or only logical processor of a package boots it (70 R1704; log 34). -/
def isBootstrap : Bool := decide (numLogical ≤ 1) || bootstrapChosen
/-- PLATFORM_IO (20_memory R203; 92 D10): the byte that a port answers to the n-th draw, a read of it; an input of the
machine, not a function of its state (41 R701; log 12). -/
opaque platformIo (port : Word16) (n : Nat) : Byte
/-- What a byte at an address that the platform does not populate, or of a device, reads as (20_memory R202). -/
opaque absentByte (a : Nat) : Byte
/-- The processor has DAZ (10_state R104). -/
opaque hasDaz : Bool
/-- MXCSR_MASK: which MXCSR bits may be 1 (00_scope R9; 10_state R104). -/
def mxcsrMask : Word32 := if hasDaz then 0x0000FFFF else 0x0000FFBF
/-- SMM revision identifier (60 R1604). -/
opaque smmRevision : Word32
/-- The local APIC's identification, to which a physical Destination ID is compared (60 R1590; log 35). -/
opaque apicId : Byte
/-- Whether a logical Destination ID names this processor (60 R1590; log 35). -/
opaque inLogical (id : Byte) : Bool
/-- The vector the external controller supplies for an ExtINT message that this processor itself sends (log 35). -/
opaque extVector : Byte

/-- CPUID.1:ECX[10] (00_scope R9). -/
opaque hasCnxtId : Bool
/-- IA32_PLATFORM_ID bits 52:50 (10_state R112). -/
opaque platformId : BitVec 3
/-- What CPUID returns where 43 R831 fixes nothing: EAX, EBX, ECX and EDX of a function. -/
opaque cpuidEax (leaf : Word32) : Word32
opaque cpuidEbx (leaf : Word32) : Word32
opaque cpuidEcx (leaf : Word32) : Word32
opaque cpuidEdx (leaf : Word32) : Word32
/-- The base-two logarithm of the size of the block that MONITOR arms, which CPUID function 5 reports in 16 bits
(10_state R176; 93 U45; log 11). -/
opaque monitorLineBits : BitVec 4
/-- Whether the processor accepts a microcode update image (92 D29). -/
opaque ucodeAuthentic (image : List Byte) : Bool

/-- The x87 transcendental functions on extended values (44 R927; 92 D12): result, and whether it was rounded up. -/
opaque x87Fsin (x : Word80) : Word80
opaque x87Fcos (x : Word80) : Word80
opaque x87Ftan (x : Word80) : Word80
opaque x87Fpatan (y x : Word80) : Word80
opaque x87F2xm1 (x : Word80) : Word80
opaque x87Fyl2x (y x : Word80) : Word80
opaque x87Fyl2xp1 (y x : Word80) : Word80
/-- The largest exponent difference one FPREM reduces, less 32; the parameter is 32 to 63 (44 R927). -/
opaque x87PremStepLess32 : BitVec 5
/-- Which defined precision the reserved code PC = 01 selects (44 R922; 93 U34). -/
opaque x87ReservedPrecision : Fin 3
/-- The SSE approximations on single-precision values (46 R1149; 92 D12): `Machine.sApproximate` takes a value only within
the error bound (log 43). -/
opaque sseRcp (x : Word32) : Word32
opaque sseRsqrt (x : Word32) : Word32

end Sys2Proof.Config
end

