-- ==== Sys2Proof/Machine/State.lean ====
section
/-! DEFINITION. The machine's state as plain data (10_state), the reasons a step stops, and the state after reset
(10_state R190). -/
namespace Sys2Proof.Machine

/-! Register files -/

/-- Eight like registers, numbered by a three-bit field. -/
structure Eight (α : Type) where
  r0 : α
  r1 : α
  r2 : α
  r3 : α
  r4 : α
  r5 : α
  r6 : α
  r7 : α
  deriving DecidableEq, Repr

def Eight.all {α : Type} (x : α) : Eight α := ⟨x, x, x, x, x, x, x, x⟩

/-- Register i: the three bits of its number choose a half, a pair and a register. -/
def Eight.get {α : Type} (f : Eight α) (i : RegNum) : α :=
  let pair (even odd : α) : α := if i.getLsbD 0 then odd else even
  let half (a b c d : α) : α := if i.getLsbD 1 then pair c d else pair a b
  if i.getLsbD 2 then half f.r4 f.r5 f.r6 f.r7 else half f.r0 f.r1 f.r2 f.r3

/-- The file with register i replaced. -/
def Eight.set {α : Type} (f : Eight α) (i : RegNum) (x : α) : Eight α :=
  let new (k : RegNum) (old : α) : α := if i = k then x else old
  ⟨new 0 f.r0, new 1 f.r1, new 2 f.r2, new 3 f.r3, new 4 f.r4, new 5 f.r5, new 6 f.r6, new 7 f.r7⟩

/-- A segment register, LDTR or TR: the selector and the hidden part (R58). A hidden part whose present bit is clear is
the null descriptor, since loading any other descriptor that is not present faults (20_memory R213). -/
structure SegReg where
  sel : Word16
  base : Word32
  /-- byte-granular effective limit -/
  limit : Word32
  /-- descriptor type, S, DPL, P, D/B and G (20_memory R211) -/
  typ : BitVec 4
  s : Bool
  dpl : BitVec 2
  p : Bool
  db : Bool
  g : Bool
  deriving DecidableEq, Repr

/-- GDTR and IDTR (R59). -/
structure TableReg where
  base : Word32
  limit : Word16
  deriving DecidableEq, Repr

/-- The x87 unit (R90 to R95): physical data registers R0 to R7, whose low 64 bits are MM0 to MM7 (R100). -/
structure Fpu where
  regs : Eight Word80
  cw : Word16
  sw : Word16
  tw : Word16
  fipSel : Word16
  fip : Word32
  fdpSel : Word16
  fdp : Word32
  fop : BitVec 11
  deriving DecidableEq, Repr

/-- The execution state of the logical processor (R175). -/
inductive Activity where
  | running | halted | mwait | shutdown | waitForSipi
  deriving DecidableEq, Repr

/-- The address range MONITOR arms: `base` is the first byte of the block (R176). -/
structure Monitor where
  armed : Bool
  base : Word32
  deriving DecidableEq, Repr

/-- The processor state that SMM entry saves and RSM restores (60 R1600, R1607; 92 D24; log 8). -/
structure Cpu where
  /-- EAX, ECX, EDX, EBX, ESP, EBP, ESI, EDI (R40) -/
  gpr : Eight Word32
  eip : Word32
  eflags : Word32
  es : SegReg
  cs : SegReg
  ss : SegReg
  ds : SegReg
  fs : SegReg
  gs : SegReg
  /-- the current privilege level (R58; log 22) -/
  cpl : BitVec 2
  gdtr : TableReg
  idtr : TableReg
  ldtr : SegReg
  tr : SegReg
  cr0 : Word32
  cr2 : Word32
  cr3 : Word32
  cr4 : Word32
  /-- the processor's copies of the four PDPTEs, if it holds any (20_memory R228) -/
  pdpte : Option (Word64 × Word64 × Word64 × Word64)
  dr0 : Word32
  dr1 : Word32
  dr2 : Word32
  dr3 : Word32
  dr6 : Word32
  dr7 : Word32
  fpu : Fpu
  xmm : Eight Word128
  mxcsr : Word32
  activity : Activity
  monitor : Monitor
  /-- the inhibit after MOV SS and POP SS (R171) -/
  ssShadow : Bool
  /-- the inhibit after STI (43 R851) -/
  stiShadow : Bool
  /-- further NMIs are held until IRET (60 R1571) -/
  nmiBlocked : Bool
  /-- the DR6 bits of debug traps that wait to be delivered (R177; 60 R1541 step 4) -/
  traps : Word32
  deriving DecidableEq, Repr

/-- One last-branch record: source and destination (R125). -/
structure BranchRecord where
  source : Word32
  target : Word32
  deriving DecidableEq, Repr

/-- The model-specific registers that hold state (R110 to R139). -/
structure Msrs where
  tsc : Word64
  biosSignId : Word64
  sysenterCs : Word64
  sysenterEsp : Word64
  sysenterEip : Word64
  clockModulation : Word64
  thermStatus : Word64
  miscEnable : Word64
  /-- the debug-control register, bit 0 LBR (R126; log 14) -/
  debugCtl : Word64
  lbrTos : BitVec 4
  /-- the sixteen records, by TOS value (R125) -/
  lbr : List BranchRecord
  /-- MSR_IQ_COUNTER0 to 5 (R128) -/
  iqCounter : List (BitVec 40)
  /-- MSR_IQ_CCCR0 to 5 (R128) -/
  iqCccr : List Word64
  /-- the eleven ESCRs of R128 in the order of their addresses, then MSR_IQ_ESCR0 and 1 -/
  escr : List Word64
  /-- IA32_MCi_STATUS, i = 0 to 3 (R133; log 15) -/
  mciStatus : List Word64
  deriving DecidableEq, Repr

/-- The local APIC's interrupt state (R170, 60 R1580). -/
structure Apic where
  irr : BitVec 256
  isr : BitVec 256
  tmr : BitVec 256
  /-- task priority (60 R1580; log 13) -/
  tpr : Byte
  deriving DecidableEq, Repr

/-- The sizes of a page (20_memory R217, R226). -/
inductive PageSize where
  | k4 | m2 | m4
  deriving DecidableEq, Repr

/-- A cached translation of one 4-KByte piece of a page (20_memory R235; log 9). -/
structure TlbEntry where
  /-- linear address bits 31:12 -/
  page : BitVec 20
  /-- physical address bits 35:12 -/
  frame : BitVec 24
  /-- the size of the page it is a piece of -/
  size : PageSize
  user : Bool
  writable : Bool
  dirty : Bool
  global : Bool
  deriving DecidableEq, Repr

/-- The loaded microcode update (R174). -/
structure Ucode where
  loaded : Bool
  revision : Word32
  deriving DecidableEq, Repr

/-- Events that wait for an instruction boundary (R177). -/
structure Pending where
  /-- RESET# (60 R1541 step 1; 70 R1770, R1771) -/
  reset : Bool
  nmi : Bool
  smi : Bool
  init : Bool
  /-- a maskable interrupt from an external controller, with its vector -/
  ext : Option Byte
  /-- a start-up message to an application processor, with its vector (70 R1704; log 34) -/
  sipi : Option Byte
  deriving DecidableEq, Repr

/-- No event waits. -/
def Pending.none : Pending := { reset := false, nmi := false, smi := false, init := false, ext := .none, sipi := .none }

/-- The registers an I/O instruction started from, for its restart on a return from SMM (92 D24; log 8). -/
structure IoStart where
  eip : Word32
  ecx : Word32
  esi : Word32
  edi : Word32
  deriving DecidableEq, Repr

/-- What the I/O instruction just completed did, for the SMM I/O fields (60 R1605, R1606; log 8). -/
structure LastIo where
  start : IoStart
  port : Word16
  /-- Table 13-15 -/
  typ : BitVec 4
  /-- 001 byte, 010 word, 100 doubleword -/
  len : BitVec 3
  /-- linear address of a string operand before and after the increment (93 U25) -/
  addrBefore : Word32
  addrAfter : Word32
  deriving DecidableEq, Repr

/-- The prefixes and bytes of the instruction being read (30_encoding R305; log 4). -/
structure Cur where
  len : Nat
  lock : Bool
  /-- the last of F2 (false) and F3 (true) -/
  rep : Option Bool
  /-- both F2 and F3 stand among the prefixes -/
  mix : Bool
  seg : Option Seg
  opsz : Bool
  adsz : Bool
  deriving DecidableEq, Repr

def Cur.none : Cur :=
  { len := 0, lock := false, rep := .none, mix := false, seg := .none, opsz := false, adsz := false }

/-- A value written to an I/O port (41 R702; log 12). -/
structure PortWrite where
  port : Word16
  bytes : Nat
  value : Word32
  deriving DecidableEq, Repr

/-- Classes of event, for the saved instruction pointer and the RF image (60 R1502, R1506). -/
inductive EventKind where
  | fault
  /-- the fault of an instruction breakpoint -/
  | breakpoint
  | trap
  /-- INT n, INT 3, INTO -/
  | soft
  /-- NMI and maskable interrupts -/
  | ext
  | abort
  deriving DecidableEq, Repr

/-- An exception or interrupt to deliver (60 R1500), with what is written before delivery (60 R1503). -/
structure Event where
  vector : Byte
  kind : EventKind := .fault
  err : Option Word32 := none
  /-- the linear address a page fault puts into CR2 -/
  cr2 : Option Word32 := none
  /-- the bits a debug exception sets in DR6 -/
  dr6 : Word32 := 0
  /-- the exception flags a SIMD floating-point exception sets in MXCSR -/
  mxcsr : Word32 := 0
  deriving DecidableEq, Repr

/-- A delivery that goes on at the next step (log 5): the event, the instruction it belongs to, and the instruction pointer it
saves. -/
structure Delivery where
  event : Event
  pc : Word32
  savedEip : Word32
  deriving DecidableEq, Repr

/-- The whole machine. -/
structure State extends Cpu where
  msr : Msrs
  apic : Apic
  tlb : List TlbEntry
  inSmm : Bool
  smbase : Word32
  /-- what SMM entry saved -/
  smmDump : Option Cpu
  /-- the model's own: where the I/O instruction started after which SMM was entered (92 D24; log 8) -/
  smmRestart : Option IoStart
  ucode : Ucode
  pending : Pending
  /-- physical memory: bytes that differ from what an unlisted address reads as, by rising address (20_memory R200,
  R202); the bytes of SMRAM stand above 2^36 (R204; log 8) -/
  mem : List Host.Cell
  /-- the model's own: the accessed and dirty flags that walks have set and an instruction fetch may not see yet, as a mask
  for each byte (R233; log 9) -/
  adMarks : List Host.Cell
  /-- the model's own: how many free values have been drawn (log 3) -/
  draws : Nat
  /-- the model's own: the instruction being read (log 4) -/
  cur : Cur
  /-- the model's own: a repeated string instruction has iterations left (log 5) -/
  repBusy : Bool
  /-- the model's own: the exception raised last in a chain too long for one step, to be delivered next (60 R1527; log 5) -/
  redeliver : Option Delivery
  /-- the model's own: the I/O instruction just completed (log 8) -/
  lastIo : Option LastIo
  /-- the model's own: what was written to I/O ports, oldest first (log 12) -/
  ioOut : List PortWrite
  deriving DecidableEq, Repr

/-! Why a step stops. -/

/-- The machine stops with a fault. -/
inductive Fault where
  /-- The processor is in the shutdown state and no NMI or INIT is pending: the step raises it (70 R1770, 92 D30). Safe. -/
  | shutdown
  /-- An application processor waits for a start-up message, and none, nor RESET# or INIT, is pending (10_state R175): the step
  raises it. Safe. -/
  | waitForSipi
  deriving DecidableEq, Repr

/-- The spec gives no meaning, or refuses. -/
inductive Refusal where
  /-- An instruction that has no meaning yet, by its mnemonic; raised by exec. Safe. -/
  | notModelled (mnemonic : String)
  /-- Virtual-8086 mode or one of its extensions is reached (92 D7); raised by the step, IRET, CLI and STI. Safe. -/
  | virtual8086
  /-- A task gate, a TSS or NT = 1 asks for a task switch (92 D7); raised by delivery, far transfers and IRET. Safe. -/
  | taskSwitch
  /-- A far transfer goes through a call gate (92 D7); raised by far JMP and CALL. Safe. -/
  | callGate
  /-- A 16-bit TSS is loaded or read (92 D7, 60 R1508); raised by LTR and delivery. Safe. -/
  | tss16
  /-- An unmasked x87 exception is pending with CR0.NE = 0 (92 D25); raised by waiting x87 and MMX instructions. Safe. -/
  | externalX87Error
  /-- INVD would discard modified data (92 D21, 93 U9); raised by INVD. Safe. -/
  | invd
  /-- IA32_MTRRCAP is accessed (10_state R115); raised by RDMSR and WRMSR. Safe. -/
  | mtrrCap
  /-- The bytes of an instruction straddle the wrap of EIP (92 D15); raised by the step. Safe. -/
  | eipWrap
  /-- A breakpoint register is enabled with an undefined length or kind (93 U24); raised by the step and by data
  accesses. Safe. -/
  | breakpointControls
  /-- The microcode trigger is written with EDX not 0 or misaligned data (93 U27); raised by WRMSR. Safe. -/
  | ucodeTrigger
  /-- Two different mandatory prefixes stand before one SSE-family opcode (93 U12); raised by the step. Safe. -/
  | mixedPrefixes
  /-- A byte of a device of the platform is accessed (20_memory R202, 92 D10); raised by the step and by every access. Safe. -/
  | deviceMemory
  /-- A test register is moved on a processor that has them (10_state R86, 93 U47); raised by MOV. Safe. -/
  | testRegister
  deriving DecidableEq, Repr

/-! Reset (10_state R190) -/

/-- A segment register as reset leaves it: limit FFFFH, read/write data (R60). -/
def SegReg.real (sel : Word16) (base : Word32) : SegReg :=
  { sel, base, limit := 0xFFFF, typ := 3, s := true, dpl := 0, p := true, db := false, g := false }

/-- The x87 unit after reset (R92, R94, R190: 0040H, 0000H, 5555H), where 92 D3 speaks of the state after FINIT, 037FH and
FFFFH: the rules of the registers and R190's table are the more specific (DEDUCED, log 40). -/
def Fpu.reset : Fpu :=
  { regs := .all 0, cw := 0x0040, sw := 0, tw := 0x5555, fipSel := 0, fip := 0, fdpSel := 0, fdp := 0, fop := 0 }

/-- The processor after reset (R190); the NMI inhibit and the STI shadow are clear, MONITOR is not armed (log 2). -/
def Cpu.reset : Cpu :=
  { gpr := { Eight.all 0 with r2 := Config.signature }
    eip := 0x0000FFF0
    eflags := 0x00000002
    es := .real 0 0
    cs := .real 0xF000 0xFFFF0000
    ss := .real 0 0
    ds := .real 0 0
    fs := .real 0 0
    gs := .real 0 0
    cpl := 0
    gdtr := { base := 0, limit := 0xFFFF }
    idtr := { base := 0, limit := 0xFFFF }
    ldtr := { SegReg.real 0 0 with typ := 2, s := false }
    tr := { SegReg.real 0 0 with typ := 11, s := false }
    cr0 := 0x60000010
    cr2 := 0
    cr3 := 0
    cr4 := 0
    pdpte := none
    dr0 := 0
    dr1 := 0
    dr2 := 0
    dr3 := 0
    dr6 := 0xFFFF0FF0
    dr7 := 0x00000400
    fpu := .reset
    xmm := .all 0
    mxcsr := 0x00001F80
    activity := if Config.isBootstrap then .running else .waitForSipi
    monitor := { armed := false, base := 0 }
    ssShadow := false
    stiShadow := false
    nmiBlocked := false
    traps := 0 }

/-- The performance counters, CCCRs and ESCRs start at 0: 10_state R190 prints "unspecified (0 under D3)", and 92 D16 and 93
U41 allow any value (DESIGN CHOICE, log 2); so do the other MSRs of log 2. -/
def Msrs.reset : Msrs :=
  { tsc := 0, biosSignId := 0, sysenterCs := 0, sysenterEsp := 0, sysenterEip := 0, clockModulation := 0, thermStatus := 0
    miscEnable := 0, debugCtl := 0, lbrTos := 0
    lbr := List.replicate 16 { source := 0, target := 0 }
    iqCounter := List.replicate 6 0
    iqCccr := List.replicate 6 0
    escr := List.replicate 13 0
    mciStatus := List.replicate 4 0 }

/-- The machine right after hardware reset (10_state R190). -/
def State.reset : State :=
  { Cpu.reset with
    msr := .reset
    apic := { irr := 0, isr := 0, tmr := 0, tpr := 0 }
    tlb := []
    inSmm := false
    smbase := 0x00030000
    smmDump := none
    smmRestart := none
    ucode := { loaded := false, revision := 0 }
    pending := .none
    mem := []
    adMarks := []
    draws := 0
    cur := .none
    repBusy := false
    redeliver := none
    lastIo := none
    ioOut := [] }

end Sys2Proof.Machine
end

