-- ==== Sys2Proof/Machine/Ops.lean ====
section
/-! DEFINITION. The named operations over registers and memory: the step's inner language, free values, physical memory,
paging, segmentation, the stack, descriptor loads, taking an exception (60 R1500 to R1528) and the return from one
(42 R753), and the frame every instruction runs in. -/
namespace Sys2Proof.Machine

/-! ## The inner language -/

/-- Why the body of an instruction ends early. -/
inductive Halt where
  | event (e : Event)
  /-- the processor enters shutdown (70 R1770) -/
  | shutdown
  | fault (f : Fault)
  | refused (r : Refusal)
  deriving DecidableEq, Repr

/-- The body of an instruction: a state transformer that can end early. -/
abbrev M := EStateM Halt State

def ask {α : Type} (f : State → α) : M α := fun s => .ok (f s) s
def update (f : State → State) : M Unit := fun s => .ok () (f s)
def halt {α : Type} (h : Halt) : M α := fun s => .error h s
def raise {α : Type} (e : Event) : M α := halt (.event e)
def refuse {α : Type} (r : Refusal) : M α := halt (.refused r)

/-- Exceptions by mnemonic (60 R1501). -/
def raiseDE {α : Type} : M α := raise { vector := 0 }
def raiseBR {α : Type} : M α := raise { vector := 5 }
def raiseUD {α : Type} : M α := raise { vector := 6 }
def raiseNM {α : Type} : M α := raise { vector := 7 }
def raiseTS {α : Type} (err : Word32) : M α := raise { vector := 10, err := some err }
def raiseNP {α : Type} (err : Word32) : M α := raise { vector := 11, err := some err }
def raiseSS {α : Type} (err : Word32) : M α := raise { vector := 12, err := some err }
def raiseGP {α : Type} (err : Word32) : M α := raise { vector := 13, err := some err }
def raiseMF {α : Type} : M α := raise { vector := 16 }
def raiseAC {α : Type} : M α := raise { vector := 17, err := some 0 }

/-- A selector as an error code, without EXT (60 R1520). -/
def selErr (sel : Word16) : Word32 := (sel &&& 0xFFFC).setWidth 32

/-- The number of the next draw, counted. -/
def nextDraw : M Nat := fun s => .ok s.draws { s with draws := s.draws + 1 }

/-- Draw a free value of width w (log 3). -/
def free (w : Nat) : M (BitVec w) := do return Config.freeBits w (← nextDraw)

/-- Draw a free bit. -/
def freeBit : M Bool := do return (← free 1).getLsbD 0

/-- A free choice between two behaviours the manual both allows. -/
def State.choose (s : State) : Bool × State :=
  ((Config.freeBits 1 s.draws).getLsbD 0, { s with draws := s.draws + 1 })

/-- Whether a body passes its checks: what it would change is undone, so that a destination that is checked as a write and
not written is not marked dirty (20_memory R234); a data breakpoint does not see it either (DESIGN CHOICE, log 10). -/
def probe {α : Type} (x : M α) : M Unit := fun s =>
  match x s with
  | .ok _ _ => .ok () s
  | .error h t => .error h t

/-! ## Bits and flags -/

def setBit {w : Nat} (x : BitVec w) (i : Nat) (v : Bool) : BitVec w :=
  if v then x ||| (1#w <<< i) else x &&& ~~~(1#w <<< i)

/-- Positions in EFLAGS (10_state R48). -/
abbrev FlagBit := Nat

/-! the six status flags -/
def fCF : FlagBit := 0
def fPF : FlagBit := fCF + 2
def fAF : FlagBit := fCF + 4
def fZF : FlagBit := fCF + 6
def fSF : FlagBit := fZF + 1
def fOF : FlagBit := fCF + 11
/-! DF, then the system flags -/
def fDF : FlagBit := fOF - 1
def fTF : FlagBit := fSF + 1
def fIF : FlagBit := fTF + 1
def fNT : FlagBit := 14
/-- the resume flag, bit 16 (R51), and the three above it -/
def fRF : FlagBit := 16
def fVM : FlagBit := fRF + 1
def fAC : FlagBit := fRF + 2
def fID : FlagBit := fRF + 5

def State.flag (s : State) (i : Nat) : Bool := s.eflags.getLsbD i
def State.setFlag (s : State) (i : Nat) (v : Bool) : State := { s with eflags := setBit s.eflags i v }
def State.iopl (s : State) : BitVec 2 := s.eflags.extractLsb' 12 2
def getFlag (i : Nat) : M Bool := ask (·.flag i)
def putFlag (i : Nat) (v : Bool) : M Unit := update (·.setFlag i v)

/-- A flag the manual leaves undefined: a free bit (10_state R50, log 18). -/
def undefFlag (i : Nat) : M Unit := do putFlag i (← freeBit)

/-! Control register fields (10_state R71, R74). -/
def State.pe (s : State) : Bool := s.cr0.getLsbD 0
def State.paging (s : State) : Bool := s.cr0.getLsbD 31
def State.wp (s : State) : Bool := s.cr0.getLsbD 16
def State.pae (s : State) : Bool := s.cr4.getLsbD 5
def State.pse (s : State) : Bool := s.cr4.getLsbD 4

/-- Default operand and address size 32 (20_memory R214); real-address mode is 16. -/
def State.code32 (s : State) : Bool := s.pe && s.cs.db
/-- Implicit stack accesses use ESP (20_memory R214, 41 R620). -/
def State.stack32 (s : State) : Bool := s.ss.db
/-- The operand-size attribute of the current instruction (30_encoding R306). -/
def State.os32 (s : State) : Bool := s.code32 != s.cur.opsz
/-- The address-size attribute of the current instruction (30_encoding R306). -/
def State.as32 (s : State) : Bool := s.code32 != s.cur.adsz

/-- EIP after `n` bytes more, in a code segment of the current default size (10_state R46). -/
def State.eipPlus (s : State) (n : Nat) : Word32 :=
  let t := s.eip + BitVec.ofNat 32 n
  if s.code32 then t else t &&& 0xFFFF

/-- The offset of the next instruction (10_state R46). -/
def State.nextPc (s : State) : Word32 := s.eipPlus s.cur.len

/-! ## Physical memory (20_memory R200 to R205) -/

/-- What a byte of memory that nothing has written reads as (log 1). -/
def unlistedByte : Byte := 0

def Memory.read (m : List Host.Cell) (a : Nat) : Byte :=
  match m with
  | [] => unlistedByte
  | (b, v) :: rest => if a = b then v else Memory.read rest a

def Memory.write (m : List Host.Cell) (a : Nat) (v : Byte) : List Host.Cell :=
  match m with
  | [] => if v = unlistedByte then [] else [(a, v)]
  | (b, w) :: rest =>
    if a < b then (if v = unlistedByte then (b, w) :: rest else (a, v) :: (b, w) :: rest)
    else if a = b then (if v = unlistedByte then rest else (a, v) :: rest)
    else (b, w) :: Memory.write rest a v

/-- Every listed address lies above `lo`, addresses rise, and no entry is what an unlisted address reads as. -/
def Memory.wfFrom (lo : Option Nat) (m : List Host.Cell) : Bool :=
  match m with
  | [] => true
  | (a, v) :: rest => (match lo with | none => true | some l => decide (l < a)) && v != unlistedByte && Memory.wfFrom (some a) rest

/-- The canonical form of memory. -/
def Memory.wf (m : List Host.Cell) : Bool := Memory.wfFrom none m

/-! SMRAM and the platform's map (R202, R204): SMRAM is memory of its own at SMBASE, visible only in SMM; its bytes stand in
the list of memory above every physical address (log 8). What is not RAM is a parameter (log 1). -/

/-- The size of the physical address space (R200), which is added to an address of SMRAM. -/
def smramKey : Nat := 2 ^ 36

/-- Whether an address lies in SMRAM, the 64 KBytes from SMBASE on, while it is visible. -/
def State.inSmram (s : State) (a : Nat) : Bool :=
  s.inSmm && decide (a < 2 ^ 32 ∧ (BitVec.ofNat 32 a - s.smbase).toNat < 0x10000)

/-- Where the byte of a physical address stands in the list of memory. -/
def State.cell (s : State) (a : Nat) : Nat := if s.inSmram a then a + smramKey else a

/-- The four bytes at an offset of the SMM state save area, modulo 2^32 (60 R1602; log 8). -/
def smmSlot (smbase : Word32) (off : Nat) : List Nat :=
  (List.range 4).map fun k => (smbase + BitVec.ofNat 32 (0x8000 + off + k)).toNat

/-- What the platform has at an address; RAM where it names nothing. -/
def regionKind (a : Nat) : Option Config.RegionKind :=
  (Config.platformMemory.find? fun r => decide (r.base ≤ a ∧ a < r.base + r.size)).map (·.kind)

def State.kindAt (s : State) (a : Nat) : Option Config.RegionKind :=
  if s.inSmram a then none else if smramKey ≤ a then some .absent else regionKind a

/-- The window of the interrupt messages (R245(b), 60 R1590), which holds the local APIC's page. -/
def inMessages (a : Nat) : Bool := decide (0xFEE00000 ≤ a ∧ a ≤ 0xFEEFFFFF)

/-- Whether a byte keeps what is stored: RAM, and outside the window of the interrupt messages but for the ordinary bytes of
the local APIC's page. -/
def State.storable (s : State) (a : Nat) : Bool :=
  s.kindAt a == none && !(inMessages a && decide (0xFEE00FFF < a))

/-! The local APIC page (10_state R170, 60 R1580): reads of the IRR, ISR and TMR words give the registers, and writes to
them do nothing; the task priority and end-of-interrupt registers at their family's addresses (log 13); the rest of
the page is ordinary memory. -/

/-- The byte of a 256-bit register laid out as eight doublewords at 16-byte strides from `base`, if `a` is one. -/
def apicByte (base : Nat) (r : BitVec 256) (a : Nat) : Option Byte :=
  let off := a - base
  if base ≤ a ∧ off < 0x80 ∧ off % 16 < 4 then some (r.extractLsb' (32 * (off / 16) + 8 * (off % 16)) 8) else none

def apicRead (s : State) (a : Nat) : Option Byte :=
  if a < 0xFEE00000 ∨ 0xFEE00FFF < a then none
  else if a = 0xFEE00080 then some s.apic.tpr
  else (apicByte 0xFEE00100 s.apic.isr a).orElse fun _ => (apicByte 0xFEE00180 s.apic.tmr a).orElse fun _ =>
    apicByte 0xFEE00200 s.apic.irr a

/-- The highest vector whose bit is set, below `n`. -/
def highestBit (r : BitVec 256) : Nat → Option Nat
  | 0 => none
  | n + 1 => if r.getLsbD n then some n else highestBit r n

/-- End of interrupt: the highest in-service bit is cleared (60 R1580). -/
def Apic.eoi (a : Apic) : Apic :=
  match highestBit a.isr 256 with
  | some v => { a with isr := setBit a.isr v false }
  | none => a

/-- A byte of physical memory. The walks and the copies of the PDPTEs read it too, and at the address of a device they get the
open constant of an absent byte and are not refused (DESIGN CHOICE, log 1). -/
def physRead8 (s : State) (a : Nat) : Byte :=
  match apicRead s a with
  | some v => v
  | none =>
    if s.kindAt a = none ∨ s.kindAt a = some .rom then Memory.read s.mem (s.cell a) else Config.absentByte a

/-- A byte that is stored is the software's: no flag of a walk is left to be seen there. -/
def physWrite8 (s : State) (a : Nat) (v : Byte) : State :=
  if a = 0xFEE00080 then { s with apic := { s.apic with tpr := v } }
  else if a = 0xFEE000B0 then { s with apic := s.apic.eoi }
  else match apicRead s a with
    | some _ => s
    | none =>
      if s.storable a then
        { s with mem := Memory.write s.mem (s.cell a) v, adMarks := Memory.write s.adMarks (s.cell a) 0 }
      else s

/-! Interrupt messages (R245(b), 60 R1590). -/

/-- Whether a message's address names this processor: a physical Destination ID is its APIC ID, what a logical one names
is the platform's (log 35). -/
def addressed (address : Word32) : Bool :=
  let id : Byte := address.extractLsb' 12 8
  if address.getLsbD 2 then Config.inLogical id else id == Config.apicId

/-- An interrupt message: a doubleword written by a device, or by this processor, to an address of the window (60 R1580,
R1590). Data bits 10:8 are the delivery mode, bit 15 says level-triggered and bit 14 assert; a deassert message, of INIT
too, does nothing (log 35). `ext` is the vector the external controller supplies for ExtINT. -/
def State.message (s : State) (address data : Word32) (ext : Byte) : State :=
  let v := (data.extractLsb' 0 8).toNat
  let level := data.getLsbD 15
  let pend (f : Pending → Pending) : State := { s with pending := f s.pending }
  let accept : State :=
    if v < 16 then s
    else { s with apic := { s.apic with irr := setBit s.apic.irr v true, tmr := setBit s.apic.tmr v level } }
  if address.extractLsb' 20 12 != 0xFEE || !addressed address || (level && !data.getLsbD 14) then s
  else match (data.extractLsb' 8 3).toNat with
    | 0 | 1 => accept
    | 2 => if v = 0 then pend ({ · with smi := true }) else s
    | 4 => pend ({ · with nmi := true })
    | 5 => pend ({ · with init := true })
    | 7 => pend ({ · with ext := some ext })
    | _ => s

/-- The address of a doubleword write that is an interrupt message: an aligned one in the window, outside the page where
the local APIC's registers are (log 35). -/
def messageAt : List Nat → Option Nat
  | [a, _, _, _] => if inMessages a && decide (0xFEE00FFF < a ∧ a % 4 = 0) then some a else none
  | _ => none

/-- The little-endian number in the bytes at the given addresses (R205). -/
def physReadNat (s : State) : List Nat → Nat
  | [] => 0
  | a :: rest => (physRead8 s a).toNat + 256 * physReadNat s rest

def physWriteBytes (s : State) (v : Nat) : List Nat → State
  | [] => s
  | a :: rest => physWriteBytes (physWrite8 s a (BitVec.ofNat 8 v)) (v / 256) rest

/-- Store a little-endian number (R205), or send it as an interrupt message. -/
def physWriteNat (s : State) (v : Nat) (addrs : List Nat) : State :=
  match messageAt addrs with
  | some a => s.message (BitVec.ofNat 32 a) (BitVec.ofNat 32 v) Config.extVector
  | none => physWriteBytes s v addrs

def addrsFrom (a n : Nat) : List Nat := (List.range n).map (a + ·)

def physRead32 (s : State) (a : Nat) : Word32 := BitVec.ofNat 32 (physReadNat s (addrsFrom a 4))
def physRead64 (s : State) (a : Nat) : Word64 := BitVec.ofNat 64 (physReadNat s (addrsFrom a 8))

/-! ## Paging (20_memory R216 to R236) -/

/-- A translation as the paging structures give it. -/
structure PageInfo where
  frame : BitVec 24
  size : PageSize
  user : Bool
  writable : Bool
  global : Bool
  /-- A set in every entry used -/
  accessed : Bool
  /-- D set in the final entry -/
  dirty : Bool
  /-- physical addresses of the entries used, the final one last -/
  entries : List Nat
  deriving DecidableEq, Repr

/-- What a walk of the paging structures finds. -/
inductive Walk where
  | absent
  | reserved
  | page (p : PageInfo)
  deriving DecidableEq, Repr

/-- The page a chain of entries describes: rights are the AND over the levels (R218). -/
def pageOf (size : PageSize) (frame : BitVec 24) (upper : List Word64) (final : Word64) (entries : List Nat) : Walk :=
  let all (i : Nat) : Bool := final.getLsbD i && upper.all (·.getLsbD i)
  .page { frame, size, user := all 2, writable := all 1, global := final.getLsbD 8, accessed := all 5, dirty := final.getLsbD 6
          entries }

/-- The walk of 32-bit entries (R217). -/
def walk32 (s : State) (la : Word32) : Walk :=
  let pdeA := (s.cr3 &&& 0xFFFFF000).toNat + 4 * (la.extractLsb' 22 10).toNat
  let pde := physRead32 s pdeA
  if !pde.getLsbD 0 then .absent
  else if s.pse && pde.getLsbD 7 then
    if pde.extractLsb' 13 9 != 0 then .reserved
    else pageOf .m4 ((pde.extractLsb' 22 10 ++ la.extractLsb' 12 10 : BitVec 20).setWidth 24) [] (pde.setWidth 64) [pdeA]
  else
    let pteA := (pde &&& 0xFFFFF000).toNat + 4 * (la.extractLsb' 12 10).toNat
    let pte := physRead32 s pteA
    if !pte.getLsbD 0 then .absent
    else pageOf .k4 ((pte.extractLsb' 12 20).setWidth 24) [pde.setWidth 64] (pte.setWidth 64) [pdeA, pteA]

/-- A present PDPTE with a reserved bit set (R221). -/
def pdpteBad (p : Word64) : Bool := p.getLsbD 0 && p &&& 0xFFFFFFF0000001E6 != 0

/-- The walk of 64-bit entries below a page-directory-pointer-table entry (R222 to R228). -/
def walkPae (s : State) (pdpte : Word64) (la : Word32) : Walk :=
  if !pdpte.getLsbD 0 then .absent
  else if pdpteBad pdpte then .reserved
  else
    let pdeA := (pdpte.extractLsb' 12 24).toNat * 4096 + 8 * (la.extractLsb' 21 9).toNat
    let pde := physRead64 s pdeA
    if !pde.getLsbD 0 then .absent
    else if pde.extractLsb' 36 28 != 0 then .reserved
    else if pde.getLsbD 7 then
      if pde.extractLsb' 13 8 != 0 then .reserved
      else pageOf .m2 (pde.extractLsb' 21 15 ++ la.extractLsb' 12 9) [] pde [pdeA]
    else
      let pteA := (pde.extractLsb' 12 24).toNat * 4096 + 8 * (la.extractLsb' 12 9).toNat
      let pte := physRead64 s pteA
      if !pte.getLsbD 0 then .absent
      else if pte.extractLsb' 36 28 != 0 then .reserved
      else pageOf .k4 (pte.extractLsb' 12 24) [pde] pte [pdeA, pteA]

/-- The i-th PDPTE in memory (R228). -/
def pdpteInMemory (s : State) (i : Nat) : Word64 := physRead64 s ((s.cr3 &&& 0xFFFFFFE0).toNat + 8 * i)

/-- The PDPTE a walk uses: memory's or the processor's copy, a free choice where they differ (R228, log 9). -/
def choosePdpte (la : Word32) : M Word64 := do
  let i := (la.extractLsb' 30 2).toNat
  let fresh ← ask fun s => pdpteInMemory s i
  match ← ask (·.pdpte) with
  | none => return fresh
  | some (p0, p1, p2, p3) =>
    let held := match i with | 0 => p0 | 1 => p1 | 2 => p2 | _ => p3
    if held = fresh then return fresh
    if ← freeBit then return held else return fresh

def walk (la : Word32) : M Walk := do
  if ← ask State.pae then
    let p ← choosePdpte la
    ask fun s => walkPae s p la
  else ask fun s => walk32 s la

/-- The page-fault error code (60 R1525). -/
def pfErr (present write user rsvd : Bool) : Word32 :=
  setBit (setBit (setBit (setBit 0 0 present) 1 write) 2 user) 3 rsvd

def raisePF {α : Type} (la : Word32) (present write user rsvd : Bool) : M α :=
  raise { vector := 14, err := some (pfErr present write user rsvd), cr2 := some la }

/-- Page-level protection (R218). -/
def rightsOk (s : State) (user writable write asUser : Bool) : Bool :=
  (user || !asUser) && (writable || !write || !(asUser || s.wp))

/-- Set bit `i` of the byte at an address if it is clear: an A flag (bit 5) or a D flag (bit 6) (R234). Whether an
instruction fetch sees it is open (R233). -/
def setEntryBit (i : Nat) (s : State) (a : Nat) : State :=
  let old := physRead8 s a
  if old.getLsbD i then s
  else
    let mark := setBit (Memory.read s.adMarks (s.cell a)) i true
    let t := physWrite8 s a (setBit old i true)
    { t with adMarks := Memory.write t.adMarks (s.cell a) mark }

def setEntryBits (i : Nat) (s : State) (entries : List Nat) : State := entries.foldl (setEntryBit i) s

def tlbFind (t : List TlbEntry) (page : BitVec 20) : Option TlbEntry := t.find? (fun e => e.page = page)
def tlbDrop (t : List TlbEntry) (page : BitVec 20) : List TlbEntry := t.filter (fun e => e.page != page)

/-- Whether a linear address lies in the page that a cached piece belongs to. -/
def TlbEntry.covers (e : TlbEntry) (la : Word32) : Bool :=
  let low : Nat := match e.size with | .k4 => 0 | .m2 => 9 | .m4 => 10
  e.page >>> low == la.extractLsb' 12 20 >>> low

/-- Whether the cached translation is what the structures in memory now say. -/
def TlbEntry.fresh (e : TlbEntry) (pge : Bool) (p : PageInfo) : Bool :=
  e.frame == p.frame && e.size == p.size && e.user == p.user && e.writable == p.writable && e.dirty == p.dirty && p.accessed
    && e.global == (p.global && pge)

/-- Use the translation a walk found: check rights, set A and D, cache it (R218, R234, R235). A walk that ends in a page fault
sets no accessed flag in the entries it has used, where R234 lets a model set them early (DESIGN CHOICE, log 9). -/
def useWalk (la : Word32) (write asUser : Bool) (w : Walk) : M (BitVec 24) := do
  match w with
  | .absent => raisePF la false write asUser false
  | .reserved => raisePF la true write asUser true
  | .page p =>
    if !(← ask fun s => rightsOk s p.user p.writable write asUser) then raisePF la true write asUser false
    update fun s => setEntryBits 5 s p.entries
    if write then update fun s => setEntryBits 6 s (p.entries.drop (p.entries.length - 1))
    let page := la.extractLsb' 12 20
    update fun s => { s with tlb :=
      { page, frame := p.frame, size := p.size, user := p.user, writable := p.writable, dirty := p.dirty || write
        global := p.global && s.cr4.getLsbD 7 } :: tlbDrop s.tlb page }
    return p.frame

/-- Use the cached translation; a first write re-walks to set D (R235). -/
def useCached (la : Word32) (write asUser : Bool) (e : TlbEntry) (w : Walk) : M (BitVec 24) := do
  if write && !e.dirty then useWalk la write asUser w
  else if ← ask fun s => rightsOk s e.user e.writable write asUser then return e.frame
  else raisePF la true write asUser false

/-- The 4-KByte frame a linear address lies in. Where a cached translation differs from the structures in memory,
either may be used (R236): a free choice. -/
def translatePage (la : Word32) (write asUser : Bool) : M (BitVec 24) := do
  let w ← walk la
  match ← ask fun s => tlbFind s.tlb (la.extractLsb' 12 20) with
  | none => useWalk la write asUser w
  | some e =>
    let same ← ask fun s => match w with | .page p => e.fresh (s.cr4.getLsbD 7) p | _ => false
    if same then useCached la write asUser e w
    else if ← freeBit then useCached la write asUser e w
    else useWalk la write asUser w

/-- The physical address of a linear one (R201, R216). -/
def translate (la : Word32) (write asUser : Bool) : M Nat := do
  if ← ask State.paging then
    let f ← translatePage la write asUser
    return f.toNat * 4096 + (la.extractLsb' 0 12).toNat
  else return la.toNat

/-- The physical addresses of n bytes from a linear one, each page translated once (log 10); `prev` is the physical
address of the byte before. -/
def translateFrom (la : Word32) (prev : Nat) (write asUser : Bool) : Nat → M (List Nat)
  | 0 => return []
  | n + 1 => do
    let a ← if la.extractLsb' 0 12 = 0 then translate la write asUser else pure (prev + 1)
    let rest ← translateFrom (la + 1) a write asUser n
    return a :: rest

/-- What a device does is the platform's: an access to one is refused (R202; log 1). -/
def checkDevice (addrs : List Nat) : M Unit := do
  if ← ask fun s => addrs.any fun a => s.kindAt a == some .device then refuse .deviceMemory

def translateRange (la : Word32) (n : Nat) (write asUser : Bool) : M (List Nat) := do
  match n with
  | 0 => return []
  | n + 1 =>
    let a ← translate la write asUser
    let rest ← translateFrom (la + 1) a write asUser n
    checkDevice (a :: rest)
    return a :: rest

/-- TLB invalidation (R240): entries that are not global, or all. -/
def flushTlb (all : Bool) : M Unit :=
  update fun s => { s with tlb := if all then [] else s.tlb.filter (·.global) }

/-! ## System accesses: descriptor tables, the TSS, the interrupt table (supervisor, R218) -/

def sysRead (la : Word32) (n : Nat) : M Nat := do
  let addrs ← translateRange la n false false
  ask fun s => physReadNat s addrs

def sysWrite (la : Word32) (n v : Nat) : M Unit := do
  let addrs ← translateRange la n true false
  update fun s => physWriteNat s v addrs

/-! ## Segmentation (20_memory R210 to R215) -/

def State.seg (s : State) : Seg → SegReg
  | .es => s.es | .cs => s.cs | .ss => s.ss | .ds => s.ds | .fs => s.fs | .gs => s.gs

def State.setSeg (s : State) (r : SegReg) : Seg → State
  | .es => { s with es := r } | .cs => { s with cs := r } | .ss => { s with ss := r }
  | .ds => { s with ds := r } | .fs => { s with fs := r } | .gs => { s with gs := r }

def SegReg.isCode (r : SegReg) : Bool := r.s && r.typ.getLsbD 3
def SegReg.conforming (r : SegReg) : Bool := r.isCode && r.typ.getLsbD 2
def SegReg.expandDown (r : SegReg) : Bool := r.s && !r.typ.getLsbD 3 && r.typ.getLsbD 2
def SegReg.readable (r : SegReg) : Bool := r.s && (!r.typ.getLsbD 3 || r.typ.getLsbD 1)
def SegReg.writable (r : SegReg) : Bool := r.s && !r.typ.getLsbD 3 && r.typ.getLsbD 1

/-- The limit check for n bytes at an offset (R212), without wrap-around. -/
def SegReg.limitOk (r : SegReg) (off : Word32) (n : Nat) : Bool :=
  let last := off.toNat + n - 1
  if r.expandDown then r.limit.toNat < off.toNat && last ≤ (if r.db then 0xFFFFFFFF else 0xFFFF)
  else last ≤ r.limit.toNat

/-- The limit check by mode (R212, R215): in real-address mode offsets end at FFFFH whatever the hidden limit is, but in SMM,
where the limits are those of the registers (60 R1601). -/
def State.inLimit (s : State) (r : SegReg) (off : Word32) (n : Nat) : Bool :=
  if s.pe || s.inSmm then r.limitOk off n else decide (off.toNat + n ≤ 0x10000)

/-- #SS(0) for the stack segment, #GP(0) for the others (R212). -/
def raiseSeg {α : Type} (sg : Seg) : M α := if sg = .ss then raiseSS 0 else raiseGP 0

/-- Segment checks of n bytes at an offset (R212, R213): the linear address. -/
def linear (sg : Seg) (off : Word32) (n : Nat) (write : Bool) : M Word32 := do
  let r ← ask (·.seg sg)
  if ← ask State.pe then
    if !r.p then raiseGP 0
    if write && !r.writable then raiseGP 0
    if !write && !r.readable then raiseGP 0
  if !(← ask fun s => s.inLimit r off n) then raiseSeg sg
  return r.base + off

/-! ## Debug breakpoints on data and I/O (60 R1562, R1563) -/

def State.breakAddr (s : State) (n : Nat) : Word32 :=
  match n with | 0 => s.dr0 | 1 => s.dr1 | 2 => s.dr2 | _ => s.dr3
/-- Ln or Gn (10_state R83). -/
def State.breakOn (s : State) (n : Nat) : Bool := s.dr7.getLsbD (2 * n) || s.dr7.getLsbD (2 * n + 1)
def State.breakKind (s : State) (n : Nat) : BitVec 2 := s.dr7.extractLsb' (16 + 4 * n) 2
def State.breakLen (s : State) (n : Nat) : BitVec 2 := s.dr7.extractLsb' (18 + 4 * n) 2

/-- An enabled breakpoint whose length or kind the manual leaves undefined, seen by an access of the given kinds
(93 U24): an instruction breakpoint with a length, a length of 10, kind 10 with CR4.DE = 0. -/
def State.breakBad (s : State) (kinds : BitVec 2 → Bool) (n : Nat) : Bool :=
  s.breakOn n && kinds (s.breakKind n)
    && ((s.breakKind n == 0 && s.breakLen n != 0) || s.breakLen n == 2 || (s.breakKind n == 2 && !s.cr4.getLsbD 3))

/-- Whether n bytes at an address overlap breakpoint k's range, modulo 2^32 (R201); `bits` are the bits of the breakpoint
register that count. -/
def State.breakHits (s : State) (bits : Word32) (k : Nat) (a : Word32) (n : Nat) : Bool :=
  let len := (s.breakLen k).toNat + 1
  let lo := s.breakAddr k &&& bits &&& ~~~(BitVec.ofNat 32 (len - 1))
  decide ((a - lo).toNat < len ∨ (lo - a).toNat < n)

/-- The DR6 bits of the breakpoints of the given kinds that an access hits. -/
def State.breakMask (s : State) (kinds : BitVec 2 → Bool) (a : Word32) (n : Nat) (bits : Word32 := 0xFFFFFFFF) : Word32 :=
  let hit (k : Nat) : Bool := s.breakOn k && kinds (s.breakKind k) && s.breakHits bits k a n
  setBit (setBit (setBit (setBit 0 0 (hit 0)) 1 (hit 1)) 2 (hit 2)) 3 (hit 3)

def pendDebug (bits : Word32) : M Unit :=
  update fun s => { s with traps := s.traps ||| bits }

def checkBreakControls (kinds : BitVec 2 → Bool) : M Unit := do
  if ← ask fun s => s.breakBad kinds 0 || s.breakBad kinds 1 || s.breakBad kinds 2 || s.breakBad kinds 3 then
    refuse .breakpointControls

/-- Note a data access for the data breakpoints (60 R1562). -/
def noteData (la : Word32) (n : Nat) (write : Bool) : M Unit := do
  let kinds (k : BitVec 2) : Bool := k == 3 || (write && k == 1)
  checkBreakControls kinds
  pendDebug (← ask fun s => s.breakMask kinds la n)

/-- Note an I/O access for the I/O breakpoints, whose port is the low half of the register (60 R1563). -/
def noteIo (port : Word16) (n : Nat) : M Unit := do
  checkBreakControls (· == 2)
  pendDebug (← ask fun s => s.breakMask (· == 2) (port.setWidth 32) n 0xFFFF)

/-! ## Data accesses of instructions -/

/-- Alignment checking is on (20_memory R208). -/
def State.alignOn (s : State) : Bool := s.cr0.getLsbD 18 && s.flag fAC && s.cpl == 3

/-- The boundary an access of n bytes is aligned to: its width 2, 4 or 8, and 8 for 10 bytes (20_memory R208, 92 D4;
log 10). -/
def alignment (n : Nat) : Nat := if n = 10 then 8 else if n = 2 ∨ n = 4 ∨ n = 8 then n else 1

/-- #AC(0) for a data access that is not aligned (20_memory R208). -/
def alignCheck (la : Word32) (n : Nat) : M Unit := do
  if la.toNat % alignment n != 0 && (← ask State.alignOn) then raiseAC

/-- The physical addresses of a data access after its checks, in the order of 40 R451: segment, paging, alignment. -/
def dataAddrs (sg : Seg) (off : Word32) (n : Nat) (write : Bool) : M (List Nat) := do
  let la ← linear sg off n write
  let addrs ← translateRange la n write (← ask (·.cpl == 3))
  alignCheck la n
  noteData la n write
  return addrs

def readAt (w : Nat) (addrs : List Nat) : M (BitVec w) := ask fun s => BitVec.ofNat w (physReadNat s addrs)
def writeAt (v : Nat) (addrs : List Nat) : M Unit := update fun s => physWriteNat s v addrs

/-- Read a w-bit operand from memory (20_memory R205). -/
def loadMem (w : Nat) (sg : Seg) (off : Word32) : M (BitVec w) := do readAt w (← dataAddrs sg off (w / 8) false)

/-- Store a w-bit operand. -/
def storeMem {w : Nat} (sg : Seg) (off : Word32) (v : BitVec w) : M Unit := do
  writeAt v.toNat (← dataAddrs sg off (w / 8) true)

/-! ## The stack (41 R620) -/

def State.esp (s : State) : Word32 := s.gpr.r4

/-- The stack pointer plus d, as wide as SS.B says: the new ESP. -/
def State.espPlus (s : State) (d : Word32) : Word32 :=
  let t := s.esp + d
  if s.stack32 then t else s.esp.extractLsb' 16 16 ++ t.setWidth 16

/-- The offset a stack pointer value addresses. -/
def State.stackOff (s : State) (esp : Word32) : Word32 := if s.stack32 then esp else esp &&& 0xFFFF

def setEsp (v : Word32) : M Unit := update fun s => { s with gpr := { s.gpr with r4 := v } }

/-- In real-address mode a push from the offset 1 shuts the processor down (41 R620), and so it does in SMM, where CR0.PE is
clear too and R620 does not speak of the 4-GByte limits (60 R1601; DESIGN CHOICE, log 38). -/
def checkPushWrap (off : Word32) : M Unit := do
  if !(← ask State.pe) && off == 1 then halt .shutdown

/-- Check the slot of a push of n bytes below `esp`; answer its physical addresses and the new stack pointer. -/
def slotBelow (n : Nat) (esp : Word32) : M (List Nat × Word32) := do
  checkPushWrap (← ask (·.stackOff esp))
  let t ← ask fun s => ({ s with gpr := { s.gpr with r4 := esp } } : State).espPlus (-(BitVec.ofNat 32 n))
  return (← dataAddrs .ss (← ask (·.stackOff t)) n true, t)

/-- Check the slots of pushes of n bytes each, the first below `esp`; answer their physical addresses and the last
stack pointer. -/
def pushSlots (n : Nat) (esp : Word32) : Nat → M (List (List Nat) × Word32)
  | 0 => return ([], esp)
  | k + 1 => do
    let (addrs, t) ← slotBelow n esp
    let (rest, last) ← pushSlots n t k
    return (addrs :: rest, last)

def writeSlots (vals : List Word32) (slots : List (List Nat)) : M Unit :=
  match vals, slots with
  | v :: vs, a :: rest => do
    writeAt v.toNat a
    writeSlots vs rest
  | _, _ => return ()

/-- Push values of n bytes each, all slots checked before any is written (41 R620, R625). -/
def pushAll (n : Nat) (vals : List Word32) : M Unit := do
  let (slots, last) ← pushSlots n (← ask State.esp) vals.length
  writeSlots vals slots
  setEsp last

def push (n : Nat) (v : Word32) : M Unit := pushAll n [v]

/-- Read the n bytes at the stack pointer plus d. -/
def peek (n : Nat) (d : Nat) : M Word32 := do
  let off ← ask fun s => s.stackOff (s.espPlus (BitVec.ofNat 32 d))
  return (← loadMem (8 * n) .ss off).setWidth 32

/-- Release d bytes of stack. -/
def release (d : Nat) : M Unit := do setEsp (← ask (·.espPlus (BitVec.ofNat 32 d)))

/-- Pop(n) (41 R620). -/
def pop (n : Nat) : M Word32 := do
  let v ← peek n 0
  release n
  return v

/-! ## Descriptors (20_memory R211) -/

def descType (d : Word64) : BitVec 4 := d.extractLsb' 40 4
def descS (d : Word64) : Bool := d.getLsbD 44
def descDpl (d : Word64) : BitVec 2 := d.extractLsb' 45 2
def descP (d : Word64) : Bool := d.getLsbD 47
def descBase (d : Word64) : Word32 := d.extractLsb' 56 8 ++ d.extractLsb' 16 24
def descLimit20 (d : Word64) : BitVec 20 := d.extractLsb' 48 4 ++ d.extractLsb' 0 16
/-- Effective limit: granular by 4096 when G = 1. -/
def descLimit (d : Word64) : Word32 :=
  let l := (descLimit20 d).setWidth 32
  if d.getLsbD 55 then l <<< 12 ||| 0xFFF else l
def gateSel (d : Word64) : Word16 := d.extractLsb' 16 16
def gateOff (d : Word64) : Word32 := d.extractLsb' 48 16 ++ d.extractLsb' 0 16

/-- The hidden part a descriptor gives (10_state R58). -/
def segOfDesc (sel : Word16) (d : Word64) : SegReg :=
  { sel, base := descBase d, limit := descLimit d, typ := descType d, s := descS d, dpl := descDpl d, p := descP d
    db := d.getLsbD 54, g := d.getLsbD 55 }

/-- The null descriptor behind a null selector (20_memory R213). -/
def nullSeg (sel : Word16) : SegReg :=
  { sel, base := 0, limit := 0, typ := 0, s := false, dpl := 0, p := false, db := false, g := false }

def isNull (sel : Word16) : Bool := sel.extractLsb' 2 14 == 0
def selRpl (sel : Word16) : BitVec 2 := sel.extractLsb' 0 2
def withRpl (sel : Word16) (rpl : BitVec 2) : Word16 := sel.extractLsb' 2 14 ++ rpl

/-- The linear address of a selector's descriptor, if it lies inside its table (10_state R57). -/
def State.descAddr (s : State) (sel : Word16) : Option Word32 :=
  let off := 8 * (sel.extractLsb' 3 13).toNat
  if sel.getLsbD 2 then
    if s.ldtr.p && off + 7 ≤ s.ldtr.limit.toNat then some (s.ldtr.base + BitVec.ofNat 32 off) else none
  else if off + 7 ≤ s.gdtr.limit.toNat then some (s.gdtr.base + BitVec.ofNat 32 off) else none

/-- Read a selector's descriptor with its address; `out` is raised when it lies outside its table. -/
def readDesc (sel : Word16) (out : M (Word32 × Word64)) : M (Word32 × Word64) := do
  match ← ask (·.descAddr sel) with
  | none => out
  | some a => return (a, BitVec.ofNat 64 (← sysRead a 8))

/-- Set the accessed bit of a code or data descriptor if it is clear: the descriptor as it now is. 41 R640 step 3 says so of
a load of a data or stack segment register; for the CS of a far transfer, and the CS and SS of a delivery, it is the model's
choice (DESIGN CHOICE, log 37). -/
def markAccessed (a : Word32) (d : Word64) : M Word64 := do
  if d.getLsbD 40 then return d
  let d' := setBit d 40 true
  sysWrite (a + 5) 1 (d'.extractLsb' 40 8).toNat
  return d'

/-- The checks of LoadSeg for SS (41 R640 step 1), against the given privilege level: the descriptor and its address. -/
def stackDesc (sel : Word16) (cpl : BitVec 2) : M (Word32 × Word64) := do
  if isNull sel then raiseGP 0
  let (a, d) ← readDesc sel (raiseGP (selErr sel))
  let r := segOfDesc sel d
  if selRpl sel != cpl || !r.writable || r.dpl != cpl then raiseGP (selErr sel)
  if !r.p then raiseSS (selErr sel)
  return (a, d)

/-- The hidden part of a descriptor that passed its checks, now marked accessed. -/
def useDesc (sel : Word16) (p : Word32 × Word64) : M SegReg := do return segOfDesc sel (← markAccessed p.1 p.2)

/-- LoadSeg for SS. -/
def checkStackSeg (sel : Word16) (cpl : BitVec 2) : M SegReg := do useDesc sel (← stackDesc sel cpl)

/-- LoadSeg for DS, ES, FS and GS (41 R640 step 2). -/
def checkDataSeg (sel : Word16) : M SegReg := do
  if isNull sel then return nullSeg sel
  let (a, d) ← readDesc sel (raiseGP (selErr sel))
  let r := segOfDesc sel d
  if !r.readable then raiseGP (selErr sel)
  let cpl ← ask (·.cpl)
  if !r.conforming && (r.dpl < cpl || r.dpl < selRpl sel) then raiseGP (selErr sel)
  if !r.p then raiseNP (selErr sel)
  return segOfDesc sel (← markAccessed a d)

/-- Real-address mode: the selector and the base, limit and rights unchanged (41 R640). 10_state R58 says that a load sets
FFFFH and read/write data; R640 is the rule of the load and holds (90_conflicts, precedence; DEDUCED, log 25). -/
def realSeg (r : SegReg) (sel : Word16) : SegReg := { r with sel, base := sel.setWidth 32 <<< 4 }

/-- LoadSeg (41 R640): the new value of the register. -/
def newSeg (sg : Seg) (sel : Word16) : M SegReg := do
  if ← ask State.pe then
    if sg = .ss then checkStackSeg sel (← ask (·.cpl)) else checkDataSeg sel
  else return realSeg (← ask (·.seg sg)) sel

def loadSeg (sg : Seg) (sel : Word16) : M Unit := do
  let r ← newSeg sg sel
  update (·.setSeg r sg)

/-! ## Last-branch recording (10_state R126, 60 R1640) -/

/-- Record a taken branch, interrupt or exception when bit 0 of the debug-control MSR is set (log 14). -/
def State.recordBranch (s : State) (source target : Word32) : State :=
  if s.msr.debugCtl.getLsbD 0 then
    let tos : BitVec 4 := BitVec.ofNat 4 ((s.msr.lbrTos.toNat + 1) % Config.lbrDepth)
    { s with msr := { s.msr with lbrTos := tos, lbr := s.msr.lbr.set tos.toNat { source, target } } }
  else s

/-! ## Taking an exception or interrupt (60 R1500 to R1513) -/

/-- The RF bit of the pushed image (60 R1506). At a boundary it is the live RF, what the instruction or iteration before
left: 1 after an IRETD that loaded RF, after a 16-bit POPF or IRET that ran with RF = 1, and between the iterations of a
repeated string instruction that was entered with RF = 1 (10_state R51), although R1506 says 0 for a trap and at an
instruction boundary (DESIGN CHOICE, log 44). -/
def State.imageRf (s : State) (k : EventKind) : Bool :=
  match k with
  | .fault => true
  | .ext => s.repBusy || s.flag fRF
  | _ => s.flag fRF

/-- The EFLAGS image pushed. -/
def State.flagsImage (s : State) (k : EventKind) : Word32 := setBit s.eflags fRF (s.imageRf k)

/-- A selector in a slot of n bytes: the upper half of a doubleword slot is a free value (60 R1511, 93 U23). -/
def selSlot (n : Nat) (sel : Word16) : M Word32 := do
  if n = 4 then return (← free 16) ++ sel else return sel.setWidth 32

/-- The offset k bytes below a stack pointer of the given width. -/
def stackBelow (big : Bool) (esp : Word32) (k : Nat) : Word32 :=
  let t := esp - BitVec.ofNat 32 k
  if big then t else t &&& 0xFFFF

/-- ESP after k bytes have been pushed with a stack pointer of the given width. -/
def espBelow (big : Bool) (esp : Word32) (k : Nat) : Word32 :=
  let t := esp - BitVec.ofNat 32 k
  if big then t else esp.extractLsb' 16 16 ++ t.setWidth 16

/-- Whether the slots i to i + k - 1 of n bytes below a stack pointer have room in a stack segment (60 R1500); `short` is
raised by one that has none. -/
def frameRoom (r : SegReg) (big : Bool) (esp : Word32) (n : Nat) (short : M Unit) (i : Nat) : Nat → M Unit
  | 0 => return ()
  | k + 1 => do
    checkPushWrap (stackBelow big esp (n * i))
    if !(← ask fun s => s.inLimit r (stackBelow big esp (n * (i + 1))) n) then short
    frameRoom r big esp n short (i + 1) k

/-- The slots of the pushes of a delivery, translated for a privilege level; at level 3 their alignment is checked
(20_memory R208). They are no data accesses for the breakpoints (60 R1562). -/
def frameSlots (r : SegReg) (big : Bool) (esp : Word32) (n : Nat) (asUser : Bool) (i : Nat) : Nat → M (List (List Nat))
  | 0 => return []
  | k + 1 => do
    let la := r.base + stackBelow big esp (n * (i + 1))
    let addrs ← translateRange la n true asUser
    if asUser then alignCheck la n
    let rest ← frameSlots r big esp n asUser (i + 1) k
    return addrs :: rest

/-- The real-address-mode table (60 R1500, R1504): the vector is read after the pushes; a push with SP = 1 shuts the
processor down (41 R620). -/
def deliverReal (e : Event) (savedEip : Word32) : M Unit := do
  let v := 4 * e.vector.toNat
  let idtr ← ask (·.idtr)
  if v + 3 > idtr.limit.toNat then raiseGP 0
  let s ← ask id
  frameRoom s.ss s.stack32 s.esp 2 (raiseSS 0) 0 3
  let slots ← frameSlots s.ss s.stack32 s.esp 2 false 0 3
  writeSlots [s.flagsImage e.kind, s.cs.sel.setWidth 32, savedEip] slots
  setEsp (espBelow s.stack32 s.esp 6)
  update fun s => ((s.setFlag fIF false).setFlag fTF false).setFlag fAC false
  let target ← sysRead (idtr.base + BitVec.ofNat 32 v) 4
  let sel := BitVec.ofNat 16 (target / 65536)
  update fun s => { s with cs := realSeg s.cs sel, eip := BitVec.ofNat 32 (target % 65536) }

/-- The inner stack pointer from the TSS (60 R1512): SS and ESP for privilege level p. -/
def innerStack (p : BitVec 2) (ext : Word32) : M (Word16 × Word32) := do
  let tr ← ask (·.tr)
  if tr.typ == 1 || tr.typ == 3 then refuse .tss16
  let off := 8 * p.toNat + 4
  if off + 5 > tr.limit.toNat then raiseTS (selErr tr.sel + ext)
  let esp ← sysRead (tr.base + BitVec.ofNat 32 off) 4
  let ss ← sysRead (tr.base + BitVec.ofNat 32 (off + 4)) 2
  return (BitVec.ofNat 16 ss, BitVec.ofNat 32 esp)

/-- The checks on the new stack segment (60 R1513): its descriptor, with its address. -/
def checkInnerStack (sel : Word16) (p : BitVec 2) (ext : Word32) : M (Word32 × Word64) := do
  if isNull sel then raiseTS ext
  let err := selErr sel + ext
  let (a, d) ← readDesc sel (raiseTS err)
  let r := segOfDesc sel d
  if selRpl sel != p || r.dpl != p || !r.writable then raiseTS err
  if !r.p then raiseSS err
  return (a, d)

/-- Delivery through an interrupt or trap gate in protected mode (60 R1500): the checks, room for the whole frame, the
limit of the target, and then the descriptors are marked accessed and the frame is pushed. -/
def deliverGate (e : Event) (savedEip : Word32) : M Unit := do
  let ext : Word32 := if e.kind = .soft then 0 else 1
  let v8 := 8 * e.vector.toNat
  let idtErr : Word32 := BitVec.ofNat 32 (v8 + 2) + ext
  let s ← ask id
  if v8 + 7 > s.idtr.limit.toNat then raiseGP idtErr
  let g : Word64 := BitVec.ofNat 64 (← sysRead (s.idtr.base + BitVec.ofNat 32 v8) 8)
  let typ := descType g
  if descS g || !(typ == 5 || typ == 6 || typ == 7 || typ == 14 || typ == 15) then raiseGP idtErr
  if e.kind = .soft && descDpl g < s.cpl then raiseGP idtErr
  if !descP g then raiseNP idtErr
  if typ == 5 then refuse .taskSwitch
  let sel := gateSel g
  if isNull sel then raiseGP ext
  let (a, d) ← readDesc sel (raiseGP (selErr sel + ext))
  let c := segOfDesc sel d
  if !c.isCode || s.cpl < c.dpl then raiseGP (selErr sel + ext)
  if !c.p then raiseNP (selErr sel + ext)
  let n := if typ == 14 || typ == 15 then 4 else 2
  let target : Word32 := if n = 4 then gateOff g else gateOff g &&& 0xFFFF
  let err := e.err.toList
  let image := s.flagsImage e.kind
  let csSlot ← selSlot n s.cs.sel
  if !c.conforming && c.dpl < s.cpl then
    let (newSs, newEsp) ← innerStack c.dpl ext
    let found ← checkInnerStack newSs c.dpl ext
    let ssSlot ← selSlot n s.ss.sel
    let vals := [ssSlot, s.esp, image, csSlot, savedEip] ++ err
    let big := (segOfDesc newSs found.2).db
    frameRoom (segOfDesc newSs found.2) big newEsp n (raiseSS (selErr newSs + ext)) 0 vals.length
    if c.limit < target then raiseGP 0
    let ss ← useDesc newSs found
    let cs ← useDesc (withRpl sel c.dpl) (a, d)
    let slots ← frameSlots ss ss.db newEsp n (c.dpl == 3) 0 vals.length
    writeSlots vals slots
    update fun s => { s with
      cpl := c.dpl, ss, cs, eip := target
      gpr := { s.gpr with r4 := espBelow ss.db newEsp (n * vals.length) } }
  else
    let vals := [image, csSlot, savedEip] ++ err
    frameRoom s.ss s.ss.db s.esp n (raiseSS 0) 0 vals.length
    if c.limit < target then raiseGP 0
    let cs ← useDesc (withRpl sel s.cpl) (a, d)
    let slots ← frameSlots s.ss s.ss.db s.esp n (s.cpl == 3) 0 vals.length
    writeSlots vals slots
    update fun s => { s with
      cs, eip := target
      gpr := { s.gpr with r4 := espBelow s.ss.db s.esp (n * vals.length) } }
  if typ == 6 || typ == 14 then putFlag fIF false
  update fun s => (((s.setFlag fTF false).setFlag fNT false).setFlag fRF false).setFlag fVM false

/-- A debug exception: INT 1 and an external interrupt of vector 1 are none, and leave DR7.GD alone (60 R1561, 42 R750;
log 36). -/
def Event.debug (e : Event) : Bool := e.vector == 1 && e.kind != .soft && e.kind != .ext

/-- What is written before delivery (60 R1503): CR2, DR6 and DR7.GD, MXCSR. -/
def Event.note (e : Event) (s : State) : State :=
  { s with
    cr2 := e.cr2.getD s.cr2
    dr6 := s.dr6 ||| e.dr6
    dr7 := if e.debug then setBit s.dr7 13 false else s.dr7
    mxcsr := s.mxcsr ||| e.mxcsr }

/-- Deliver (60 R1500). Every delivery ends the inhibits of STI and MOV SS, an NMI or a single-step trap taken in the shadow
of STI among them, of which 43 R851 does not speak; the traps that the shadow of MOV SS held are kept (DESIGN CHOICE,
log 7). -/
def deliver (e : Event) (savedEip : Word32) : M Unit := do
  if ← ask State.pe then
    if ← getFlag fVM then refuse .virtual8086
    deliverGate e savedEip
  else deliverReal e savedEip
  update fun t => { t with
    activity := .running, ssShadow := false, stiShadow := false, repBusy := false, lastIo := none }

/-- Contributory exceptions (60 R1527); INT n and external interrupts are benign. -/
def Event.contributory (e : Event) : Bool :=
  e.kind == .fault && (e.vector == 0 || e.vector == 10 || e.vector == 11 || e.vector == 12 || e.vector == 13)

def Event.pageFault (e : Event) : Bool := e.kind == .fault && e.vector == 14

/-- A fault raised while `first` was being delivered gives a double fault (60 R1527). -/
def Event.doubles (first second : Event) : Bool :=
  (first.contributory && second.contributory) || (first.pageFault && (second.contributory || second.pageFault))

/-- What a failed attempt leaves (60 R1503): accessed, dirty and busy flags in memory, the TLB, the draws. -/
def State.keepFrom (s t : State) : State :=
  { s with mem := t.mem, adMarks := t.adMarks, apic := t.apic, tlb := t.tlb, draws := t.draws }

/-- Enter shutdown (70 R1770). -/
def State.enterShutdown (s : State) : State := { s with activity := .shutdown, cur := .none }

/-- Deliver an event, and whatever its delivery raises (60 R1527, R1528). `pc` is the instruction the event belongs to;
a fault of a software interrupt's own delivery belongs to that instruction, except that #NP saves what the event would
have saved (60 R1502, R1531; log 30). The table ends a chain of faults but for those #AC, a benign one, begins again: what a
step has no room for is delivered by the next one (DESIGN CHOICE, log 5). A page fault that ends in a double fault or in
shutdown is not delivered as #PF and leaves CR2 with the address of the first, of which 10_state R72 and R1525 do not say
(DESIGN CHOICE, log 30). -/
def deliverEvent (e : Event) (pc savedEip : Word32) (s : State) : Nat → Host.Outcome State Fault Refusal
  | 0 => .next { s with redeliver := some { event := e, pc, savedEip } }
  | fuel + 1 =>
    let s := e.note s
    match deliver e savedEip s with
    | .ok _ t => .next (t.recordBranch (s.cs.base + pc) (t.cs.base + t.eip))
    | .error (.refused r) _ => .refused r
    | .error (.fault f) _ => .fault f
    | .error .shutdown t => .next (s.keepFrom t).enterShutdown
    | .error (.event e2) t =>
      let s' := s.keepFrom t
      if e.vector = 8 ∧ e.kind = .abort then .next s'.enterShutdown
      else if e.doubles e2 then
        match free 32 s' with
        | .ok eip s2 => deliverEvent { vector := 8, kind := .abort, err := some 0 } pc eip s2 fuel
        | .error _ _ => .next s'.enterShutdown
      else
        let saved := if e.kind = .soft ∧ e2.vector ≠ 11 then pc else savedEip
        deliverEvent e2 pc saved s' fuel

/-- Take an event at the boundary or inside an instruction: the one way into a handler. Seven deliveries are room for the
longest chain with one #AC: a benign event, a contributory exception, a page fault, #AC, a contributory exception, a page
fault, #DF (60 R1527). -/
def takeEvent (e : Event) (pc savedEip : Word32) (s : State) : Host.Outcome State Fault Refusal :=
  deliverEvent e pc savedEip s 7

/-! ## Far transfers and the return from an exception (42 R721, R743, R753) -/

/-- Real-address-mode load of CS (42 R721). -/
def realFar (sel : Word16) : M Unit := update fun s => { s with cs := realSeg s.cs sel }

/-- The checks of a far JMP or CALL to a code segment (42 R721): the new CS. A data, LDT or reserved descriptor is
#GP with the selector (log 37). The descriptor's accessed bit is set, before a far CALL pushes and so also where the push
faults: 42 R721 loads only the hidden part (DESIGN CHOICE, log 37). -/
def farTarget (sel : Word16) (off : Word32) : M SegReg := do
  if isNull sel then raiseGP 0
  let (a, d) ← readDesc sel (raiseGP (selErr sel))
  let r := segOfDesc sel d
  if !r.s then
    if r.typ == 4 || r.typ == 12 then refuse .callGate
    if r.typ == 1 || r.typ == 3 || r.typ == 5 || r.typ == 9 || r.typ == 11 then refuse .taskSwitch
  if !r.isCode then raiseGP (selErr sel)
  let cpl ← ask (·.cpl)
  if r.conforming && cpl < r.dpl then raiseGP (selErr sel)
  if !r.conforming && (r.dpl != cpl || cpl < selRpl sel) then raiseGP (selErr sel)
  if !r.p then raiseNP (selErr sel)
  if r.limit < off then raiseGP 0
  return segOfDesc (withRpl sel cpl) (← markAccessed a d)

/-- The checks of a far return to a code segment (42 R743): its descriptor, with its address. A gate, TSS or data
descriptor is #GP with the selector (log 37). -/
def returnDesc (sel : Word16) (off : Word32) : M (Word32 × Word64) := do
  if isNull sel then raiseGP 0
  let (a, d) ← readDesc sel (raiseGP (selErr sel))
  let r := segOfDesc sel d
  if !r.isCode then raiseGP (selErr sel)
  let rpl := selRpl sel
  if r.conforming && rpl < r.dpl then raiseGP (selErr sel)
  if !r.conforming && r.dpl != rpl then raiseGP (selErr sel)
  if !r.p then raiseNP (selErr sel)
  if r.limit < off then raiseGP 0
  return (a, d)

/-- A data segment register after a return to an outer level (42 R743): null if the new level may not use it. -/
def SegReg.afterReturn (r : SegReg) (cpl : BitVec 2) : SegReg :=
  if r.p && !r.conforming && r.dpl < cpl then nullSeg 0 else r

/-- Switch to an outer privilege level: CS, SS:ESP and the data segments (42 R743). -/
def toOuter (cs ss : SegReg) (esp : Word32) : M Unit :=
  let cpl := selRpl cs.sel
  update fun s => { s with
    cpl, cs, ss, gpr := { s.gpr with r4 := esp }
    ds := s.ds.afterReturn cpl, es := s.es.afterReturn cpl, fs := s.fs.afterReturn cpl, gs := s.gs.afterReturn cpl }

/-- The (E)SP an image gives under a stack segment's B flag. A 16-bit image is zero-extended into ESP where B = 1, of which 42
R743 says nothing (DESIGN CHOICE, log 38). -/
def imageEsp (ss : SegReg) (old image : Word32) : Word32 :=
  if ss.db then image else old.extractLsb' 16 16 ++ image.setWidth 16

/-- The return address of a far return: offset and selector. -/
def returnAddress (n : Nat) : M (Word32 × Word16) := do
  let off ← peek n 0
  return (off, (← peek n n).setWidth 16)

/-- The transfer of a far return to an address (42 R743, R753): `skip` further bytes lie between the return address and the
outer stack pointer, `drop` bytes are released from the stack returned to; protected mode. All checks precede all changes. -/
def returnFar (n : Nat) (dest : Word32 × Word16) (skip drop : Nat) : M Unit := do
  let (off, sel) := dest
  let cpl ← ask (·.cpl)
  if selRpl sel < cpl then raiseGP (selErr sel)
  if selRpl sel = cpl then
    let cs ← useDesc sel (← returnDesc sel off)
    release (2 * n + skip)
    update fun s => { s with cs }
  else
    let esp ← peek n (2 * n + skip)
    let ssSel : Word16 := (← peek n (3 * n + skip)).setWidth 16
    let code ← returnDesc sel off
    let stack ← stackDesc ssSel (selRpl sel)
    let cs ← useDesc sel code
    let ss ← useDesc ssSel stack
    let old ← ask State.esp
    let base := imageEsp ss old esp
    toOuter cs ss (imageEsp ss base (base + BitVec.ofNat 32 drop))

/-- The bits of EFLAGS that POPF and IRET take from an image of the operand size, at a privilege level (41 R631,
42 R753). RF is among them for IRET, and VIF and VIP for IRET at level 0; a 16-bit image holds none of the three, and VIF and
VIP stay, of which R753 does not speak (DESIGN CHOICE, log 46). -/
def flagsMask (s : State) (os32 : Bool) (iret : Bool) : Word32 :=
  let m : Word32 := 0x00004DD5
  let m := if s.cpl ≤ s.iopl then m ||| 0x200 else m
  let m := if s.cpl = 0 then m ||| 0x3000 else m
  let m := if os32 then m ||| 0x00240000 else m
  let m := if os32 && iret then m ||| 0x00010000 else m
  if os32 && iret && s.pe && s.cpl = 0 then m ||| 0x00180000 else m

/-- Load the masked bits of an image; the reserved bits keep their fixed values (10_state R53). -/
def loadFlags (image mask : Word32) : M Unit :=
  update fun s => { s with eflags := (s.eflags &&& ~~~mask) ||| (image &&& mask) }

/-- IRET (42 R753): the new instruction pointer. -/
def iretBody : M Word32 := do
  let s ← ask id
  let n := if s.os32 then 4 else 2
  if s.pe && s.flag fVM then refuse .virtual8086
  if s.pe && s.flag fNT then refuse .taskSwitch
  let (off, sel) ← returnAddress n
  let image ← peek n (2 * n)
  if !s.pe then
    release (3 * n)
    realFar sel
    loadFlags image (flagsMask s s.os32 true)
    update fun s => { s with nmiBlocked := false }
    return off
  else
    if s.os32 && image.getLsbD fVM && s.cpl == 0 then refuse .virtual8086
    returnFar n (off, sel) n 0
    loadFlags image (flagsMask s s.os32 true)
    update fun s => { s with nmiBlocked := false }
    return off

/-! ## The frame of an instruction (10_state R46, R51; 60 R1502, R1503, R1565) -/

/-- What a body starts from: the inhibits and marks of the instruction before are spent. -/
def State.begin (s : State) : State :=
  { s with ssShadow := false, stiShadow := false, lastIo := none, repBusy := false }

/-- The state after an instruction that completed: EIP, RF, the single-step trap (60 R1565), a second MOV SS in a row
does not extend the inhibit (60 R1568). While iterations of a repeated string instruction are left it has not completed, and
the inhibits it started under last (10_state R171, 43 R851), and RF stays, so that a trap between iterations pushes it as
it is (DESIGN CHOICE, log 44). 42 R720 names a facility to single-step on branches, of which
no rule gives the control bit or the effect: TF traps after every instruction (DESIGN CHOICE, log 14). -/
def State.complete (s t : State) (keepRf : Bool) (eip : Word32) : State :=
  { t with
    eip
    eflags := if keepRf || t.repBusy then t.eflags else setBit t.eflags fRF false
    ssShadow := if t.repBusy then s.ssShadow else t.ssShadow && !s.ssShadow
    stiShadow := if t.repBusy then s.stiShadow else t.stiShadow
    cur := .none
    traps := if s.flag fTF then t.traps ||| 0x4000 else t.traps }

/-- The instruction pointer an event of an instruction saves (60 R1502). -/
def State.savedEip (s : State) (k : EventKind) : Word32 :=
  match k with
  | .fault => s.eip
  | .breakpoint => s.eip
  | _ => s.nextPc

/-- What an event of an instruction is delivered from: the state before it but for 60 R1503 (a); a software interrupt
completes its instruction, which clears RF. A trap of MOV SS or POP SS that the shadow held stays in `traps`, for the first
boundary of the handler, where 60 R1568 says only that it is reported after the following instruction (DESIGN CHOICE,
log 7). -/
def State.forEvent (s t : State) (k : EventKind) : State :=
  let b := (s.begin).keepFrom t
  let b := { b with cur := .none }
  if k = .soft ∨ k = .trap then b.setFlag fRF false else b

/-- Run the body of an instruction that answers its next instruction pointer. LOCK where it is not allowed is #UD
(20_memory R260). -/
def runJump (lockOk keepRf : Bool) (body : M Word32) (s : State) : Host.Outcome State Fault Refusal :=
  let checked : M Word32 := if s.cur.lock && !lockOk then raiseUD else body
  match checked s.begin with
  | .ok eip t => .next (s.complete t keepRf eip)
  | .error (.event e) t => takeEvent e s.eip (s.savedEip e.kind) (s.forEvent t e.kind)
  | .error .shutdown t => .next (s.forEvent t .fault).enterShutdown
  | .error (.fault f) _ => .fault f
  | .error (.refused r) _ => .refused r

/-- Run the body of an instruction that goes on to the next one. The offset of the next one is cut as wide as the mode asks
in which the instruction began, also where it changes CR0.PE, as MOV to CR0 and LMSW may: 10_state R46 does not say which
(DESIGN CHOICE, log 48). -/
def runPlain (lockOk : Bool) (body : M Unit) (s : State) : Host.Outcome State Fault Refusal :=
  runJump lockOk false (do body; return s.nextPc) s

/-- A near branch to an offset (42 R720): the target must lie inside the code segment; the branch is recorded. -/
def branchTo (t : Word32) : M Word32 := do
  let s ← ask id
  let t := if s.os32 then t else t &&& 0xFFFF
  if !s.inLimit s.cs t 1 then raiseGP 0
  update (·.recordBranch (s.cs.base + s.eip) (s.cs.base + t))
  return t

end Sys2Proof.Machine
end

