-- ==== Sys2Proof/Machine/Flags.lean ====
section
/-! DEFINITION. The flag computations (10_state R49, R50) and the condition predicates (R52). -/
namespace Sys2Proof.Machine

/-- An even number of 1 bits in a byte. -/
def evenParity (b : Byte) : Bool :=
  !(b.getLsbD 0 ^^ b.getLsbD 1 ^^ b.getLsbD 2 ^^ b.getLsbD 3 ^^ b.getLsbD 4 ^^ b.getLsbD 5 ^^ b.getLsbD 6 ^^ b.getLsbD 7)

/-- ZF, SF and PF of a result (R49): the settings called standard. -/
def State.resultFlags {w : Nat} (s : State) (r : BitVec w) : State :=
  ((s.setFlag fZF (r == 0)).setFlag fSF r.msb).setFlag fPF (evenParity (r.setWidth 8))

/-! Carry, overflow and adjust of a + b + c and a - b - c (R49). -/

def addCarry {w : Nat} (a b : BitVec w) (c : Bool) : Bool := decide (2 ^ w ≤ a.toNat + b.toNat + c.toNat)
def addSum {w : Nat} (a b : BitVec w) (c : Bool) : BitVec w := a + b + BitVec.ofNat w c.toNat
def addOverflow {w : Nat} (a b : BitVec w) (c : Bool) : Bool := a.msb == b.msb && (addSum a b c).msb != a.msb
def addAdjust {w : Nat} (a b : BitVec w) (c : Bool) : Bool := decide (16 ≤ a.toNat % 16 + b.toNat % 16 + c.toNat)

def subBorrow {w : Nat} (a b : BitVec w) (c : Bool) : Bool := decide (a.toNat < b.toNat + c.toNat)
def subDiff {w : Nat} (a b : BitVec w) (c : Bool) : BitVec w := a - b - BitVec.ofNat w c.toNat
def subOverflow {w : Nat} (a b : BitVec w) (c : Bool) : Bool := a.msb != b.msb && (subDiff a b c).msb != a.msb
def subAdjust {w : Nat} (a b : BitVec w) (c : Bool) : Bool := decide (a.toNat % 16 < b.toNat % 16 + c.toNat)

/-- The flags of a + b + c but for CF. -/
def State.incFlags {w : Nat} (s : State) (a b : BitVec w) (c : Bool) : State :=
  ((s.setFlag fOF (addOverflow a b c)).setFlag fAF (addAdjust a b c)).resultFlags (addSum a b c)

/-- The flags of a + b + c (R49). -/
def State.addFlags {w : Nat} (s : State) (a b : BitVec w) (c : Bool) : State :=
  (s.incFlags a b c).setFlag fCF (addCarry a b c)

/-- The flags of a - b - c but for CF. -/
def State.decFlags {w : Nat} (s : State) (a b : BitVec w) (c : Bool) : State :=
  ((s.setFlag fOF (subOverflow a b c)).setFlag fAF (subAdjust a b c)).resultFlags (subDiff a b c)

/-- The flags of a - b - c (R49). -/
def State.subFlags {w : Nat} (s : State) (a b : BitVec w) (c : Bool) : State :=
  (s.decFlags a b c).setFlag fCF (subBorrow a b c)

/-- The flags of AND, OR, XOR and TEST: CF and OF cleared, AF undefined (40 R461). -/
def logicFlags {w : Nat} (r : BitVec w) : M Unit := do
  update fun s => ((s.setFlag fCF false).setFlag fOF false).resultFlags r
  undefFlag fAF

/-- Each of the listed flags is undefined (93 U38). -/
def undefFlags : List Nat → M Unit
  | [] => return ()
  | i :: rest => do
    undefFlag i
    undefFlags rest

/-- CF and OF alike, the other four status flags undefined (40 R480, R481). -/
def mulFlags (big : Bool) : M Unit := do
  update fun s => (s.setFlag fCF big).setFlag fOF big
  undefFlags [fSF, fZF, fAF, fPF]

/-- The six status flags undefined. -/
def undefStatus : M Unit := undefFlags [fCF, fPF, fAF, fZF, fSF, fOF]

/-- The predicate that bits 3:1 of tttn name (R52). -/
def State.condBase (s : State) (ttt : BitVec 3) : Bool :=
  match ttt.toNat with
  | 0 => s.flag fOF
  | 1 => s.flag fCF
  | 2 => s.flag fZF
  | 3 => s.flag fCF || s.flag fZF
  | 4 => s.flag fSF
  | 5 => s.flag fPF
  | 6 => s.flag fSF != s.flag fOF
  | _ => s.flag fZF || s.flag fSF != s.flag fOF

/-- cond(tttn) (R52): bit 0 negates. -/
def State.cond (s : State) (cc : Cond) : Bool := s.condBase (cc.extractLsb' 1 3) != cc.getLsbD 0

/-- ZF, PF, CF of a floating-point comparison to EFLAGS, the other three cleared (44 R1000, 46, 47). -/
def State.compareFlags (s : State) (zf pf cf : Bool) : State :=
  (((((s.setFlag fZF zf).setFlag fPF pf).setFlag fCF cf).setFlag fOF false).setFlag fSF false).setFlag fAF false

end Sys2Proof.Machine
end

