-- ==== Sys2Proof/Machine/Operands.lean ====
section
/-! DEFINITION. Operands: general registers by width (10_state R40 to R42), effective addresses (30_encoding R341 to
R346), register-or-memory operands (40 R450), immediates (30_encoding R347), MMX and XMM operands. -/
namespace Sys2Proof.Machine

/-- The width of an integer operation (40 R450). -/
inductive Sz where
  | b | w | d
  deriving DecidableEq, Repr

abbrev Sz.bits : Sz → Nat
  | .b => 8 | .w => 16 | .d => 32

def Sz.bytes : Sz → Nat
  | .b => 1 | .w => 2 | .d => 4

/-- OS as a width. -/
def State.osz (s : State) : Sz := if s.os32 then .d else .w

/-- Bytes when w = 0, else OS (30_encoding R322). -/
def State.wsz (s : State) (w : Bool) : Sz := if w then s.osz else .b

/-! ## General registers (R40 to R42) -/

def State.reg32 (s : State) (r : RegNum) : Word32 := s.gpr.get r
def State.setReg32 (s : State) (r : RegNum) (v : Word32) : State := { s with gpr := s.gpr.set r v }

/-- GPR_N[r]; byte registers 4 to 7 are AH, CH, DH, BH (R41). -/
def State.readReg (s : State) (sz : Sz) (r : RegNum) : BitVec sz.bits :=
  match sz with
  | .b => if r.getLsbD 2 then (s.reg32 (r &&& 3)).extractLsb' 8 8 else (s.reg32 r).extractLsb' 0 8
  | .w => (s.reg32 r).extractLsb' 0 16
  | .d => s.reg32 r

/-- A write changes only the named bits (R42). -/
def State.writeReg (s : State) (sz : Sz) (r : RegNum) (v : BitVec sz.bits) : State :=
  match sz with
  | .b =>
    if r.getLsbD 2 then
      let old := s.reg32 (r &&& 3)
      s.setReg32 (r &&& 3) (old.extractLsb' 16 16 ++ (v : Byte) ++ old.extractLsb' 0 8)
    else
      let old := s.reg32 r
      s.setReg32 r (old.extractLsb' 8 24 ++ (v : Byte))
  | .w => s.setReg32 r ((s.reg32 r).extractLsb' 16 16 ++ (v : Word16))
  | .d => s.setReg32 r v

def getReg (sz : Sz) (r : RegNum) : M (BitVec sz.bits) := ask (·.readReg sz r)
def putReg (sz : Sz) (r : RegNum) (v : BitVec sz.bits) : M Unit := update (·.writeReg sz r v)

/-- Register numbers (R40): a bit for each of two pairs of registers, then the place in the pair. -/
abbrev regNo (upper second odd : Bool) : RegNum := BitVec.ofBool upper ++ BitVec.ofBool second ++ BitVec.ofBool odd

/-! accumulator and count -/
def rAX : RegNum := regNo false false false
def rCX : RegNum := regNo false false true
/-! data and base -/
def rDX : RegNum := regNo false true false
def rBX : RegNum := regNo false true true
/-! the pointers -/
def rSP : RegNum := regNo true false false
def rBP : RegNum := regNo true false true
/-! the indexes -/
def rSI : RegNum := regNo true true false
def rDI : RegNum := regNo true true true
/-- AH as a byte register (R41). -/
def rAH : RegNum := rSP

/-! ## Effective addresses (30_encoding R341 to R346) -/

def disp16Val (d : Disp16) : Word32 :=
  match d with
  | .none => 0 | .d8 d => d.signExtend 32 | .d16 d => d.setWidth 32

def disp32Val (d : Disp32) : Word32 :=
  match d with
  | .none => 0 | .d8 d => d.signExtend 32 | .d32 d => d

/-- The sum of registers of a 16-bit form (R343). -/
def State.base16 (s : State) (rm : RegNum) : Word32 :=
  match rm.toNat with
  | 0 => s.reg32 rBX + s.reg32 rSI
  | 1 => s.reg32 rBX + s.reg32 rDI
  | 2 => s.reg32 rBP + s.reg32 rSI
  | 3 => s.reg32 rBP + s.reg32 rDI
  | 4 => s.reg32 rSI
  | 5 => s.reg32 rDI
  | 6 => s.reg32 rBP
  | _ => s.reg32 rBX

/-- A scaled index; index 100 means none (R342). -/
def State.scaled (s : State) (scale : BitVec 2) (index : RegNum) : Word32 :=
  if index = 4 then 0 else s.reg32 index <<< scale.toNat

/-- The offset of a memory operand, truncated to the address size (R344). -/
def State.ea (s : State) (m : MemRef) : Word32 :=
  match m with
  | .base16 rm d => (s.base16 rm + disp16Val d) &&& 0xFFFF
  | .abs16 d => d.setWidth 32
  | .base32 rm d => s.reg32 rm + disp32Val d
  | .abs32 d => d
  | .sib sc i b d => s.reg32 b + s.scaled sc i + disp32Val d
  | .sibAbs sc i d => s.scaled sc i + d

/-- The default segment (R345). -/
def defaultSeg (m : MemRef) : Seg :=
  match m with
  | .base16 rm _ => if rm = 2 ∨ rm = 3 ∨ rm = 6 then .ss else .ds
  | .abs16 _ => .ds
  | .base32 rm _ => if rm = 5 then .ss else .ds
  | .abs32 _ => .ds
  | .sib _ _ b _ => if b = 4 ∨ b = 5 then .ss else .ds
  | .sibAbs _ _ _ => .ds

/-- The segment a data access uses: the override, else its default (R311). -/
def State.dataSeg (s : State) (dflt : Seg) : Seg := s.cur.seg.getD dflt

def State.memSeg (s : State) (m : MemRef) : Seg := s.dataSeg (defaultSeg m)

/-- An offset as wide as the address size (R344). -/
def State.maskAs (s : State) (off : Word32) : Word32 := if s.as32 then off else off &&& 0xFFFF

def moffsVal (o : MOffs) : Word32 :=
  match o with
  | .o16 o => o.setWidth 32 | .o32 o => o

/-! ## Memory operands -/

/-- The physical addresses of an n-byte operand, after its checks. -/
def memAddrs (m : MemRef) (n : Nat) (write : Bool) : M (List Nat) := do
  let s ← ask id
  dataAddrs (s.memSeg m) (s.ea m) n write

def readMem (w : Nat) (m : MemRef) : M (BitVec w) := do readAt w (← memAddrs m (w / 8) false)

def writeMem {w : Nat} (m : MemRef) (v : BitVec w) : M Unit := do writeAt v.toNat (← memAddrs m (w / 8) true)

/-- The w bits at an offset d beyond a memory operand's, an access of its own: the second part of a far pointer, of BOUND's
operand and of a pseudo-descriptor. Its offset wraps at the address size, as R344 has it for the operand's own, of which 41
R641, 42 R754 and 43 R815 do not speak (DESIGN CHOICE, log 47). -/
def readMemPlus (w : Nat) (m : MemRef) (d : Word32) : M (BitVec w) := do
  let s ← ask id
  loadMem w (s.memSeg m) (s.maskAs (s.ea m + d))

/-- A place to read and write: a register, or memory whose checks have passed. -/
inductive Loc where
  | reg (r : RegNum)
  | mem (addrs : List Nat)
  deriving DecidableEq, Repr

/-- The place a register-or-memory operand names; `write` asks for a write access too (40 R450). -/
def locate (sz : Sz) (x : Rm) (write : Bool) : M Loc :=
  match x with
  | .reg r => return .reg r
  | .mem m => do return .mem (← memAddrs m sz.bytes write)

/-- The place a destination names, checked as a write. What is not written (`stores` is false) is not marked dirty
(20_memory R234, 40 R490), and for data breakpoints it counts as the read alone (DESIGN CHOICE, log 10). -/
def target (sz : Sz) (x : Rm) (stores : Bool) : M Loc := do
  if !stores then probe (locate sz x true)
  locate sz x stores

def Loc.read (sz : Sz) (l : Loc) : M (BitVec sz.bits) :=
  match l with
  | .reg r => getReg sz r
  | .mem addrs => readAt sz.bits addrs

def Loc.write (sz : Sz) (l : Loc) (v : BitVec sz.bits) : M Unit :=
  match l with
  | .reg r => putReg sz r v
  | .mem addrs => writeAt v.toNat addrs

/-- rm_read(N) (40 R450). -/
def readRm (sz : Sz) (x : Rm) : M (BitVec sz.bits) := do (← locate sz x false).read sz

/-- rm_write(N, v). -/
def writeRm (sz : Sz) (x : Rm) (v : BitVec sz.bits) : M Unit := do (← locate sz x true).write sz v

/-- One read, then one write of the same place (40 R450). -/
def modifyRm (sz : Sz) (x : Rm) (f : BitVec sz.bits → M (BitVec sz.bits)) : M Unit := do
  let l ← locate sz x true
  let v ← l.read sz
  let v' ← f v
  l.write sz v'

/-- An immediate at an operation's width, sign-extended (30_encoding R347). -/
def immVal (sz : Sz) (i : Imm) : BitVec sz.bits :=
  match i with
  | .i8 v => v.signExtend sz.bits
  | .i16 v => v.signExtend sz.bits
  | .i32 v => v.signExtend sz.bits

/-- A relative displacement (30_encoding R348). -/
def relVal (i : Imm) : Word32 := immVal .d i

/-- LOCK is allowed: the destination is memory (20_memory R260). -/
def lockable (x : Rm) : Bool :=
  match x with
  | .mem _ => true
  | .reg _ => false

/-! ## String operands (41 R680) -/

/-- (E)CX, (E)SI or (E)DI by address size. -/
def State.asReg (s : State) (r : RegNum) : Word32 := s.maskAs (s.reg32 r)

/-- Write a register as wide as the address size (41 R680). -/
def State.setAsReg (s : State) (r : RegNum) (v : Word32) : State :=
  if s.as32 then s.writeReg .d r v else s.writeReg .w r (v.setWidth 16)

/-- An I/O instruction is to be started again (92 D24). -/
def State.restartIo (s : State) (io : IoStart) : State :=
  { (s.setReg32 rCX io.ecx).setReg32 rSI io.esi |>.setReg32 rDI io.edi with eip := io.eip }

/-! ## XMM and MMX operands -/

def State.xmmReg (s : State) (r : RegNum) : Word128 := s.xmm.get r
def State.setXmm (s : State) (r : RegNum) (v : Word128) : State := { s with xmm := s.xmm.set r v }
def getXmm (r : RegNum) : M Word128 := ask (·.xmmReg r)
def putXmm (r : RegNum) (v : Word128) : M Unit := update (·.setXmm r v)

/-- MMr: the low 64 bits of the physical x87 register r (10_state R100). -/
def State.mmReg (s : State) (r : RegNum) : Word64 := (s.fpu.regs.get r).extractLsb' 0 64

/-- A write to MMr sets bits 79:64 of the x87 register (10_state R101). -/
def State.setMm (s : State) (r : RegNum) (v : Word64) : State :=
  { s with fpu := { s.fpu with regs := s.fpu.regs.set r (0xFFFF#16 ++ v) } }

def getMm (r : RegNum) : M Word64 := ask (·.mmReg r)
def putMm (r : RegNum) (v : Word64) : M Unit := update (·.setMm r v)

/-- The low w bits of an XMM register, or w bits of memory with no alignment rule. -/
def readXmmRm (w : Nat) (x : Rm) : M (BitVec w) :=
  match x with
  | .reg r => do return (← getXmm r).setWidth w
  | .mem m => readMem w m

def readMmRm (x : Rm) : M Word64 :=
  match x with
  | .reg r => getMm r
  | .mem m => readMem 64 m

/-- A 16-byte memory operand must lie on a 16-byte boundary, else #GP(0) (20_memory R209). The check is on the linear
address and comes before the others: 48 R1361 lists it before #SS and #PF for the packed integer forms, and for the other
forms (46 R1141, 47 R1261, 49 R1471) no rule gives an order (DESIGN CHOICE, log 17). -/
def alignedAddrs (m : MemRef) (write : Bool) : M (List Nat) := do
  let s ← ask id
  if ((s.seg (s.memSeg m)).base + s.ea m).toNat % 16 != 0 then raiseGP 0
  dataAddrs (s.memSeg m) (s.ea m) 16 write

/-- A 128-bit operand: a register, or aligned memory. -/
def readX (x : Rm) : M Word128 :=
  match x with
  | .reg r => getXmm r
  | .mem m => do readAt 128 (← alignedAddrs m false)

def writeAligned (m : MemRef) (v : Word128) : M Unit := do writeAt v.toNat (← alignedAddrs m true)

end Sys2Proof.Machine
end

