-- ==== Sys2Proof/Machine/Boundary.lean ====
section
/-! DEFINITION. What happens at an instruction boundary (60 R1541): pending events, INIT, SMM entry, waking from the
halted states, instruction breakpoints, and reading the next instruction's bytes. -/
namespace Sys2Proof.Machine

/-! ## Events from outside (60 R1570 to R1590; log 7) -/

/-- The highest set bit's priority class v[7:4], 0 when none is set. -/
def priorityClass (r : BitVec 256) : Nat := ((highestBit r 256).getD 0) / 16

/-- The vector the local APIC offers (60 R1580). -/
def Apic.offer (a : Apic) : Option Byte :=
  match highestBit a.irr 256 with
  | some v => if priorityClass a.isr < v / 16 ∧ a.tpr.toNat / 16 < v / 16 then some (BitVec.ofNat 8 v) else none
  | none => none

/-- Delivery of the offered interrupt moves its bit from IRR to ISR (60 R1580). -/
def Apic.accept (a : Apic) (v : Byte) : Apic :=
  { a with irr := setBit a.irr v.toNat false, isr := setBit a.isr v.toNat true }

/-- Whether a maskable interrupt may be taken at this boundary (60 R1570). -/
def State.intOpen (s : State) : Bool :=
  s.flag fIF && !s.stiShadow && !s.ssShadow && (s.pending.ext.isSome || s.apic.offer.isSome)

/-- Whether an NMI may be taken, but for the STI shadow (60 R1571). -/
def State.nmiOpen (s : State) : Bool := s.pending.nmi && !s.nmiBlocked && !s.ssShadow
/-- SMI and INIT are held in SMM (60 R1572, R1600). -/
def State.smiOpen (s : State) : Bool := s.pending.smi && !s.inSmm
def State.initOpen (s : State) : Bool := s.pending.init && !s.inSmm

/-- Take the maskable interrupt: the external controller's or the local APIC's, a free choice when both wait. -/
def takeInt (s : State) : Host.Outcome State Fault Refusal :=
  let fromExt (v : Byte) (s : State) :=
    takeEvent { vector := v, kind := .ext } s.eip s.eip { s with pending := { s.pending with ext := none } }
  let fromApic (v : Byte) (s : State) :=
    takeEvent { vector := v, kind := .ext } s.eip s.eip { s with apic := s.apic.accept v }
  match s.pending.ext, s.apic.offer with
  | some v, none => fromExt v s
  | none, some v => fromApic v s
  | some v, some w => if s.choose.1 then fromExt v s.choose.2 else fromApic w s.choose.2
  | none, none => .next s

/-- NMI: further NMIs are blocked from its delivery on (60 R1571). -/
def takeNmi (s : State) : Host.Outcome State Fault Refusal :=
  takeEvent { vector := 2, kind := .ext } s.eip s.eip
    { s with pending := { s.pending with nmi := false }, nmiBlocked := true }

/-- The debug traps the completed instruction left, as one #DB (60 R1541 step 4, R1561). -/
def takeTraps (s : State) : Host.Outcome State Fault Refusal :=
  takeEvent { vector := 1, kind := .trap, dr6 := s.traps } s.eip s.eip { s with traps := 0 }

/-- INIT (70 R1702; 10_state R190, INIT column). The task priority of the local APIC is kept (log 13), MONITOR is disarmed
and the NMI inhibit and the STI shadow are clear; the last-branch registers, unspecified by R190 and not changed by R1702,
keep their values (log 2). -/
def State.initCore (s : State) : State :=
  { s with
    toCpu := { Cpu.reset with
      cr0 := (s.cr0 &&& 0x60000000) ||| 0x10
      fpu := s.fpu, xmm := s.xmm, mxcsr := s.mxcsr }
    apic := { s.apic with irr := 0, isr := 0, tmr := 0 }
    tlb := []
    pending := .none
    cur := .none, repBusy := false, lastIo := none }

/-- RESET# (70 R1701): the reset state; memory is the platform's and keeps its contents (log 26). -/
def State.hardReset (s : State) : State :=
  { State.reset with mem := s.mem, adMarks := s.adMarks, draws := s.draws, ioOut := s.ioOut }

/-- A start-up message with vector VV starts an application processor in real-address mode at VV00:0000H (70 R1704). -/
def State.startUp (s : State) (v : Byte) : State :=
  { s with activity := .running, cs := realSeg s.cs (v ++ 0#8), eip := 0, pending := { s.pending with sipi := none } }

/-- The I/O State Field and the I/O Memory Address Field (60 R1605, R1606; free where IO_SMI = 0 or the manual names
two candidates, 93 U25, U43). -/
def smmIoFields (io : Option LastIo) : M (Word32 × Word32) := do
  match io with
  | none => return ((← free 31) ++ 0#1, ← free 32)
  | some l =>
    let after ← if l.addrBefore = l.addrAfter then pure true else freeBit
    return (l.port ++ 0#8 ++ l.typ ++ l.len ++ 1#1, if after then l.addrAfter else l.addrBefore)

/-- A segment register in SMM (60 R1601). -/
def smmSeg (sel : Word16) (base : Word32) : SegReg := { SegReg.real sel base with limit := 0xFFFFFFFF }

/-- The state with the fields of the save map written into SMRAM (60 R1602 to R1606; 92 D24; log 8). -/
def State.saveMap (s : State) (ioState ioAddr : Word32) : State :=
  let put (off : Nat) (v : Word32) (t : State) : State := physWriteBytes t v.toNat (smmSlot s.smbase off)
  let io (t : State) : State :=
    if 0x30004 ≤ Config.smmRevision.toNat then put 0x7FA0 ioAddr (put 0x7FA4 ioState t) else t
  put 0x7EF8 s.smbase (put 0x7EFC Config.smmRevision (io s))

/-- SMM entry (60 R1600 to R1606; 92 D24; log 8): SMRAM is visible from here on. -/
def enterSmm : M Unit := do
  let s ← ask id
  let (ioState, ioAddr) ← smmIoFields s.lastIo
  update fun t =>
    let saved := { t with inSmm := true }.saveMap ioState ioAddr
    { t with
      mem := saved.mem, adMarks := saved.adMarks
      smmDump := some s.toCpu
      smmRestart := s.lastIo.map (·.start)
      inSmm := true
      pending := { t.pending with smi := false }
      cs := smmSeg (s.smbase.extractLsb' 4 16) s.smbase
      ds := smmSeg 0 0, es := smmSeg 0 0, fs := smmSeg 0 0, gs := smmSeg 0 0, ss := smmSeg 0 0
      cpl := 0
      eip := 0x8000
      eflags := 0x00000002
      cr0 := t.cr0 &&& 0x7FFFFFF2
      cr4 := 0
      pdpte := none
      dr7 := 0x00000400
      activity := .running
      ssShadow := false, stiShadow := false, nmiBlocked := true, traps := 0
      repBusy := false, lastIo := none }

def takeSmi (s : State) : Host.Outcome State Fault Refusal :=
  match enterSmm s with
  | .ok _ t => .next t
  | .error _ _ => .next s

/-! ## Reading an instruction (10_state R46, 30_encoding R305; 60 R1541 steps 6 to 8) -/

/-- A byte as an instruction fetch sees it: of the accessed and dirty flags that walks have set there, any value between
the old and the new (20_memory R233, 93 U3; log 9). -/
def fetchCell (a : Nat) : M Byte := do
  let v ← ask (physRead8 · a)
  let marks ← ask fun s => Memory.read s.adMarks (s.cell a)
  if marks = 0 then return v
  return v &&& ~~~(marks &&& (← free 8))

/-- The byte n bytes after the instruction pointer: the limit of CS, the wrap of EIP (92 D15), then the page. -/
def fetchByte (n : Nat) : M Byte := do
  let s ← ask id
  let off := s.eip.toNat + n
  let inside := s.inLimit s.cs (BitVec.ofNat 32 off) 1
  if 2 ^ 32 ≤ off || (!s.code32 && s.eip.toNat < 0x10000 && 0x10000 ≤ off && inside) then refuse .eipWrap
  if !inside then raiseGP 0
  let a ← translate (s.cs.base + BitVec.ofNat 32 off) false (s.cpl == 3)
  checkDevice [a]
  fetchCell a

def State.decodeCtx (s : State) : DecodeCtx :=
  { os32 := s.os32, as32 := s.as32, opsz := s.cur.opsz, rep := s.cur.rep, mix := s.cur.mix }

/-- No row of the maps has the bytes (R380, R381): #UD, on a blank cell of the x87 rows too, whatever CR0.EM and CR0.TS are
(92 D22; 60 R1542: #UD and not #NM). 44 R1045, which cites D22, puts it after the #NM check (DEDUCED, log 33). -/
def badOpcode {α : Type} : M α := raiseUD

/-- Mark how many bytes the instruction has so far. -/
def State.addLen (s : State) (n : Nat) : State := { s with cur := { s.cur with len := s.cur.len + n } }

/-- What a fault of reading the instruction becomes. -/
def fetchFault (h : Halt) (s t : State) : Host.Outcome State Fault Refusal :=
  match h with
  | .event e => takeEvent e s.eip s.eip (s.forEvent t e.kind)
  | .shutdown => .next (s.forEvent t .fault).enterShutdown
  | .fault f => .fault f
  | .refused r => .refused r

def breakAny (s : State) (kinds : BitVec 2 → Bool) : Bool :=
  s.breakBad kinds 0 || s.breakBad kinds 1 || s.breakBad kinds 2 || s.breakBad kinds 3

/-- The DR6 bits of the instruction breakpoints at the instruction pointer (60 R1560); an instruction whose iterations go on
has begun. -/
def State.codeBreaks (s : State) : Word32 :=
  if s.flag fRF || s.repBusy then 0 else s.breakMask (· == 0) (s.cs.base + s.eip) 1

/-- An enabled breakpoint the manual leaves undefined stops the machine before the instruction (93 U24). -/
def State.codeBreaksBad (s : State) : Bool :=
  !s.flag fRF && !s.repBusy && breakAny s (fun k => k == 0 || (k == 2 && !s.cr4.getLsbD 3))

def takeCodeBreak (s : State) : Host.Outcome State Fault Refusal :=
  takeEvent { vector := 1, kind := .breakpoint, dr6 := s.codeBreaks } s.eip s.eip (s.forEvent s .breakpoint)

/-! ## Waking (10_state R175, 43 R852, R881; 70 R1770, R1771) -/

/-- The events that end HLT. -/
def State.wakes (s : State) : Bool :=
  s.intOpen || s.nmiOpen || s.smiOpen || s.initOpen || s.traps != 0

/-- IA32_THERM_STATUS: the log bit follows the sensor bit (10_state R119). -/
def State.latchThermal (s : State) : State :=
  let v := s.msr.thermStatus
  { s with msr := { s.msr with thermStatus := if v.getLsbD 0 then setBit v 1 true else v } }

/-- Leave the mwait state: MONITOR is no longer armed (43 R881). -/
def State.leaveMwait (s : State) : State :=
  { s with activity := .running, monitor := { s.monitor with armed := false } }

end Sys2Proof.Machine
end

