-- ==== Sys2Proof/Machine/Arith.lean ====
section
/-! DEFINITION. General-purpose arithmetic, logic, shift, bit, exchange, flag and decimal instructions
(40_gp_arith_logic). -/
namespace Sys2Proof.Machine

/-! ## Two-operand arithmetic and logic (R453, R460 to R467) -/

/-- An operation on two operands of one width: it sets the flags and answers the result. -/
abbrev AluFn := (sz : Sz) → BitVec sz.bits → BitVec sz.bits → M (BitVec sz.bits)

/-- The width an accumulator form's immediate shows. -/
def immSz (i : Imm) : Sz :=
  match i with
  | .i8 _ => .b | .i16 _ => .w | .i32 _ => .d

/-- The operand forms of R453. `store` is false for CMP and TEST, which write nothing. -/
def aluRun (store : Bool) (op : AluFn) (f : AluForm) : M Unit := do
  let s ← ask id
  let onRm (sz : Sz) (x : Rm) (b : BitVec sz.bits) : M Unit := do
    let l ← locate sz x store
    let v ← op sz (← l.read sz) b
    if store then l.write sz v
  match f with
  | .rmReg w x r => onRm (s.wsz w) x (s.readReg (s.wsz w) r)
  | .regRm w r x =>
    let b ← readRm (s.wsz w) x
    let v ← op (s.wsz w) (s.readReg (s.wsz w) r) b
    if store then putReg (s.wsz w) r v
  | .accImm i =>
    let v ← op (immSz i) (s.readReg (immSz i) rAX) (immVal (immSz i) i)
    if store then putReg (immSz i) rAX v
  | .rmImm _ w x i => onRm (s.wsz w) x (immVal (s.wsz w) i)

/-- LOCK is allowed on the forms with a memory destination (R452). -/
def aluLock (f : AluForm) : Bool :=
  match f with
  | .rmReg _ x _ => lockable x
  | .rmImm _ _ x _ => lockable x
  | _ => false

def addOp : AluFn := fun _ a b => do
  update (·.addFlags a b false)
  return addSum a b false

def adcOp : AluFn := fun _ a b => do
  let c ← getFlag fCF
  update (·.addFlags a b c)
  return addSum a b c

def sbbOp : AluFn := fun _ a b => do
  let c ← getFlag fCF
  update (·.subFlags a b c)
  return subDiff a b c

def subOp : AluFn := fun _ a b => do
  update (·.subFlags a b false)
  return subDiff a b false

def andOp : AluFn := fun _ a b => do
  logicFlags (a &&& b)
  return a &&& b

def orOp : AluFn := fun _ a b => do
  logicFlags (a ||| b)
  return a ||| b

def xorOp : AluFn := fun _ a b => do
  logicFlags (a ^^^ b)
  return a ^^^ b

/-- R460. -/
def execAdd (f : AluForm) (s : State) : Host.Outcome State Fault Refusal := runPlain (aluLock f) (aluRun true addOp f) s
/-- R461. -/
def execOr (f : AluForm) (s : State) : Host.Outcome State Fault Refusal := runPlain (aluLock f) (aluRun true orOp f) s
/-- R462. -/
def execAdc (f : AluForm) (s : State) : Host.Outcome State Fault Refusal := runPlain (aluLock f) (aluRun true adcOp f) s
/-- R463. -/
def execSbb (f : AluForm) (s : State) : Host.Outcome State Fault Refusal := runPlain (aluLock f) (aluRun true sbbOp f) s
/-- R464. -/
def execAnd (f : AluForm) (s : State) : Host.Outcome State Fault Refusal := runPlain (aluLock f) (aluRun true andOp f) s
/-- R465. -/
def execSub (f : AluForm) (s : State) : Host.Outcome State Fault Refusal := runPlain (aluLock f) (aluRun true subOp f) s
/-- R466. -/
def execXor (f : AluForm) (s : State) : Host.Outcome State Fault Refusal := runPlain (aluLock f) (aluRun true xorOp f) s
/-- R467. -/
def execCmp (f : AluForm) (s : State) : Host.Outcome State Fault Refusal := runPlain false (aluRun false subOp f) s

/-- R474: nothing is written. -/
def execTest (f : TestForm) (s : State) : Host.Outcome State Fault Refusal :=
  runPlain false
    (match f with
     | .rmReg w x r => aluRun false andOp (.rmReg w x r)
     | .rmImm x i => aluRun false andOp (.rmImm false (immSz i != .b) x i)
     | .accImm i => aluRun false andOp (.accImm i)) s

/-! ## One-operand arithmetic (R470 to R473) -/

/-- A read-modify-write of a register-or-memory operand of width w. -/
def unary (w : Bool) (x : Rm) (f : (sz : Sz) → BitVec sz.bits → M (BitVec sz.bits)) : M Unit := do
  let sz ← ask (·.wsz w)
  modifyRm sz x (f sz)

def incRun (op : (sz : Sz) → BitVec sz.bits → M (BitVec sz.bits)) (f : IncForm) : M Unit :=
  match f with
  | .rm w x => unary w x op
  | .reg r => unary true (.reg r) op

def incLock (f : IncForm) : Bool :=
  match f with
  | .rm _ x => lockable x
  | .reg _ => false

/-- R470: CF unchanged. -/
def execInc (f : IncForm) (s : State) : Host.Outcome State Fault Refusal :=
  runPlain (incLock f) (incRun (fun _ a => do
    update (·.incFlags a 1 false)
    return addSum a 1 false) f) s

/-- R471: CF unchanged. -/
def execDec (f : IncForm) (s : State) : Host.Outcome State Fault Refusal :=
  runPlain (incLock f) (incRun (fun _ a => do
    update (·.decFlags a 1 false)
    return subDiff a 1 false) f) s

/-- R472. -/
def execNeg (w : Bool) (x : Rm) (s : State) : Host.Outcome State Fault Refusal :=
  runPlain (lockable x) (unary w x (fun _ a => do
    update (·.subFlags 0 a false)
    return subDiff 0 a false)) s

/-- R473: no flags. -/
def execNot (w : Bool) (x : Rm) (s : State) : Host.Outcome State Fault Refusal :=
  runPlain (lockable x) (unary w x (fun _ a => return ~~~a)) s

/-! ## Multiply and divide (R480 to R485) -/

/-- The double-width value AX, DX:AX or EDX:EAX. -/
def State.wide (s : State) (sz : Sz) : Word64 :=
  match sz with
  | .b => (s.readReg .w rAX).setWidth 64
  | .w => (s.readReg .w rDX ++ s.readReg .w rAX).setWidth 64
  | .d => s.readReg .d rDX ++ s.readReg .d rAX

def State.setWide (s : State) (sz : Sz) (v : Word64) : State :=
  match sz with
  | .b => s.writeReg .w rAX (v.extractLsb' 0 16)
  | .w => (s.writeReg .w rAX (v.extractLsb' 0 16)).writeReg .w rDX (v.extractLsb' 16 16)
  | .d => (s.writeReg .d rAX (v.extractLsb' 0 32)).writeReg .d rDX (v.extractLsb' 32 32)

/-- The double-width value as a signed number. -/
def wideInt (sz : Sz) (v : Word64) : Int := (v.setWidth (2 * sz.bits)).toInt

/-- R480. -/
def execMul (w : Bool) (x : Rm) (s : State) : Host.Outcome State Fault Refusal :=
  runPlain false (do
    let sz ← ask (·.wsz w)
    let src ← readRm sz x
    let p := (← getReg sz rAX).toNat * src.toNat
    update (·.setWide sz (BitVec.ofNat 64 p))
    mulFlags (decide (2 ^ sz.bits ≤ p))) s

/-- R481. -/
def execImulAcc (w : Bool) (x : Rm) (s : State) : Host.Outcome State Fault Refusal :=
  runPlain false (do
    let sz ← ask (·.wsz w)
    let src ← readRm sz x
    let p := (← getReg sz rAX).toInt * src.toInt
    update (·.setWide sz (BitVec.ofInt 64 p))
    mulFlags (decide ((BitVec.ofInt sz.bits p).toInt ≠ p))) s

/-- The truncated signed product into a register (R482, R483). -/
def imulTo (sz : Sz) (r : RegNum) (a b : BitVec sz.bits) : M Unit := do
  let p := a.toInt * b.toInt
  putReg sz r (BitVec.ofInt sz.bits p)
  mulFlags (decide ((BitVec.ofInt sz.bits p).toInt ≠ p))

/-- R482. -/
def execImulRm (r : RegNum) (x : Rm) (s : State) : Host.Outcome State Fault Refusal :=
  runPlain false (do
    let sz ← ask State.osz
    let b ← readRm sz x
    imulTo sz r (← getReg sz r) b) s

/-- R483. -/
def execImulImm (r : RegNum) (x : Rm) (i : Imm) (s : State) : Host.Outcome State Fault Refusal :=
  runPlain false (do
    let sz ← ask State.osz
    let a ← readRm sz x
    imulTo sz r a (immVal sz i)) s

/-- Quotient and remainder into AL and AH, AX and DX, or EAX and EDX. -/
def putQuotient (sz : Sz) (q r : Int) : M Unit :=
  match sz with
  | .b => do
    putReg .b rAX (BitVec.ofInt 8 q)
    putReg .b rAH (BitVec.ofInt 8 r)
  | .w => do
    putReg .w rAX (BitVec.ofInt 16 q)
    putReg .w rDX (BitVec.ofInt 16 r)
  | .d => do
    putReg .d rAX (BitVec.ofInt 32 q)
    putReg .d rDX (BitVec.ofInt 32 r)

/-- R484. -/
def execDiv (w : Bool) (x : Rm) (s : State) : Host.Outcome State Fault Refusal :=
  runPlain false (do
    let sz ← ask (·.wsz w)
    let d := (← readRm sz x).toNat
    let n := (← ask (·.wide sz)).toNat
    if d = 0 then raiseDE
    if 2 ^ sz.bits ≤ n / d then raiseDE
    putQuotient sz (n / d : Nat) (n % d : Nat)
    undefStatus) s

/-- R485: the quotient is truncated toward zero. -/
def execIdiv (w : Bool) (x : Rm) (s : State) : Host.Outcome State Fault Refusal :=
  runPlain false (do
    let sz ← ask (·.wsz w)
    let d := (← readRm sz x).toInt
    let n := wideInt sz (← ask (·.wide sz))
    if d = 0 then raiseDE
    let q := n.tdiv d
    if (BitVec.ofInt sz.bits q).toInt ≠ q then raiseDE
    putQuotient sz q (n.tmod d)
    undefStatus) s

/-! ## Shifts and rotates (R490 to R499) -/

/-- A shift by a count that is not 0: it sets the flags and answers the result. -/
abbrev ShiftFn := (sz : Sz) → BitVec sz.bits → Nat → M (BitVec sz.bits)

/-- R490: the count is masked to five bits; a count of 0 writes nothing, but the operand is checked and read. -/
def shiftBy (op : ShiftFn) (w : Bool) (x : Rm) (raw : Byte) : M Unit := do
  let sz ← ask (·.wsz w)
  let c := raw.toNat % 32
  let l ← target sz x (c != 0)
  let v ← l.read sz
  if c = 0 then return ()
  let r ← op sz v c
  l.write sz r

def shiftRun (op : ShiftFn) (f : ShiftForm) : M Unit :=
  match f with
  | .one w x => shiftBy op w x 1
  | .cl w x => do shiftBy op w x (← getReg .b rCX)
  | .imm w x n => shiftBy op w x n

/-- OF is defined only for a count of 1 (R490). -/
def shiftOf (c : Nat) (v : Bool) : M Unit := if c = 1 then putFlag fOF v else undefFlag fOF

/-- v rotated left by k < w places. -/
def rotLeft {w : Nat} (v : BitVec w) (k : Nat) : BitVec w := (v <<< k) ||| (v >>> (w - k))
/-- v rotated right by k < w places. -/
def rotRight {w : Nat} (v : BitVec w) (k : Nat) : BitVec w := (v >>> k) ||| (v <<< (w - k))

def rolOp : ShiftFn := fun sz v c => do
  let r := rotLeft v (c % sz.bits)
  putFlag fCF (r.getLsbD 0)
  shiftOf c (r.msb != r.getLsbD 0)
  return r

def rorOp : ShiftFn := fun sz v c => do
  let r := rotRight v (c % sz.bits)
  putFlag fCF r.msb
  shiftOf c (r.msb != r.getLsbD (sz.bits - 2))
  return r

def rclOp : ShiftFn := fun sz v c => do
  let t := rotLeft (BitVec.cons (← getFlag fCF) v) (c % (sz.bits + 1))
  let r := t.setWidth sz.bits
  putFlag fCF t.msb
  shiftOf c (r.msb != t.msb)
  return r

def rcrOp : ShiftFn := fun sz v c => do
  let cf ← getFlag fCF
  let t := rotRight (BitVec.cons cf v) (c % (sz.bits + 1))
  putFlag fCF t.msb
  shiftOf c (v.msb != cf)
  return t.setWidth sz.bits

def shlOp : ShiftFn := fun sz v c => do
  let r := v <<< c
  if c ≤ sz.bits then putFlag fCF (v.getLsbD (sz.bits - c)) else undefFlag fCF
  shiftOf c (r.msb != v.msb)
  update (·.resultFlags r)
  undefFlag fAF
  return r

def shrOp : ShiftFn := fun sz v c => do
  let r := v >>> c
  if c ≤ sz.bits then putFlag fCF (v.getLsbD (c - 1)) else undefFlag fCF
  shiftOf c v.msb
  update (·.resultFlags r)
  undefFlag fAF
  return r

def sarOp : ShiftFn := fun sz v c => do
  let r := v.sshiftRight c
  putFlag fCF (if c ≤ sz.bits then v.getLsbD (c - 1) else v.msb)
  shiftOf c false
  update (·.resultFlags r)
  undefFlag fAF
  return r

/-- R491. -/
def execRol (f : ShiftForm) (s : State) : Host.Outcome State Fault Refusal := runPlain false (shiftRun rolOp f) s
/-- R492. -/
def execRor (f : ShiftForm) (s : State) : Host.Outcome State Fault Refusal := runPlain false (shiftRun rorOp f) s
/-- R493. -/
def execRcl (f : ShiftForm) (s : State) : Host.Outcome State Fault Refusal := runPlain false (shiftRun rclOp f) s
/-- R494. -/
def execRcr (f : ShiftForm) (s : State) : Host.Outcome State Fault Refusal := runPlain false (shiftRun rcrOp f) s
/-- R495. -/
def execShl (f : ShiftForm) (s : State) : Host.Outcome State Fault Refusal := runPlain false (shiftRun shlOp f) s
/-- R496. -/
def execShr (f : ShiftForm) (s : State) : Host.Outcome State Fault Refusal := runPlain false (shiftRun shrOp f) s
/-- R497. -/
def execSar (f : ShiftForm) (s : State) : Host.Outcome State Fault Refusal := runPlain false (shiftRun sarOp f) s

/-- SHLD and SHRD (R498, R499): `left` shifts left. A count above OS leaves result and flags undefined. -/
def doubleBy (left : Bool) (x : Rm) (r : RegNum) (raw : Byte) : M Unit := do
  let sz ← ask State.osz
  let c := raw.toNat % 32
  let l ← target sz x (c != 0)
  let v ← l.read sz
  let src ← getReg sz r
  if c = 0 then return ()
  if sz.bits < c then
    l.write sz (← free sz.bits)
    undefStatus
  else
    let t := if left then (v <<< c) ||| (src >>> (sz.bits - c)) else (v >>> c) ||| (src <<< (sz.bits - c))
    putFlag fCF (if left then v.getLsbD (sz.bits - c) else v.getLsbD (c - 1))
    shiftOf c (t.msb != v.msb)
    update (·.resultFlags t)
    undefFlag fAF
    l.write sz t

def doubleRun (left : Bool) (f : DblForm) : M Unit :=
  match f with
  | .imm x r n => doubleBy left x r n
  | .cl x r => do doubleBy left x r (← getReg .b rCX)

/-- R498. -/
def execShld (f : DblForm) (s : State) : Host.Outcome State Fault Refusal := runPlain false (doubleRun true f) s
/-- R499. -/
def execShrd (f : DblForm) (s : State) : Host.Outcome State Fault Refusal := runPlain false (doubleRun false f) s

/-! ## Bits and bytes (R510 to R517) -/

/-- The displacement of the word that holds a register bit offset: a signed number of OS-bit words (R510). -/
def bitDisp (sz : Sz) (off : BitVec sz.bits) : Word32 :=
  BitVec.ofInt 32 ((sz.bytes : Int) * (off.toInt / (sz.bits : Int)))

/-- The word and the bit number a bit instruction selects (R510). The sum of a memory operand's offset and the displacement
of a register bit offset wraps at the address size, of which R510 and 30_encoding R344 do not say (DESIGN CHOICE, log 47). -/
def bitPlace (f : BitForm) (write : Bool) : M (Loc × Nat) := do
  let s ← ask id
  let sz := s.osz
  match f with
  | .imm x n => return (← locate sz x write, n.toNat % sz.bits)
  | .reg (.reg b) r => return (.reg b, (s.readReg sz r).toNat % sz.bits)
  | .reg (.mem m) r =>
    let off := s.readReg sz r
    let addrs ← dataAddrs (s.memSeg m) (s.maskAs (s.ea m + bitDisp sz off)) sz.bytes write
    return (.mem addrs, off.toNat % sz.bits)

/-- CF gets the bit; OF, SF, AF and PF are undefined; `f` gives the new bit, if one is written. -/
def bitRun (form : BitForm) (f : Option (Bool → Bool)) : M Unit := do
  let sz ← ask State.osz
  let (l, i) ← bitPlace form f.isSome
  let v ← l.read sz
  putFlag fCF (v.getLsbD i)
  undefFlags [fOF, fSF, fAF, fPF]
  match f with
  | none => return ()
  | some f => l.write sz (setBit v i (f (v.getLsbD i)))

def bitLock (f : BitForm) : Bool :=
  match f with
  | .imm x _ => lockable x
  | .reg x _ => lockable x

/-- R510. -/
def execBt (f : BitForm) (s : State) : Host.Outcome State Fault Refusal := runPlain false (bitRun f none) s
/-- R511. -/
def execBts (f : BitForm) (s : State) : Host.Outcome State Fault Refusal :=
  runPlain (bitLock f) (bitRun f (some fun _ => true)) s
/-- R512. -/
def execBtr (f : BitForm) (s : State) : Host.Outcome State Fault Refusal :=
  runPlain (bitLock f) (bitRun f (some fun _ => false)) s
/-- R513. -/
def execBtc (f : BitForm) (s : State) : Host.Outcome State Fault Refusal := runPlain (bitLock f) (bitRun f (some (!·))) s

/-- The lowest set bit. -/
def lowestOne {w : Nat} (v : BitVec w) : Nat := ((List.range w).find? (v.getLsbD ·)).getD 0
/-- The highest set bit. -/
def highestOne {w : Nat} (v : BitVec w) : Nat := ((List.range w).reverse.find? (v.getLsbD ·)).getD 0

/-- A zero source leaves the destination undefined (R514, 93 U15). -/
def scanRun (r : RegNum) (x : Rm) (f : (sz : Sz) → BitVec sz.bits → Nat) : M Unit := do
  let sz ← ask State.osz
  let v ← readRm sz x
  putFlag fZF (v == 0)
  if v = 0 then putReg sz r (← free sz.bits) else putReg sz r (BitVec.ofNat sz.bits (f sz v))
  undefFlags [fCF, fOF, fSF, fAF, fPF]

/-- R514. -/
def execBsf (r : RegNum) (x : Rm) (s : State) : Host.Outcome State Fault Refusal :=
  runPlain false (scanRun r x (fun _ v => lowestOne v)) s
/-- R515. -/
def execBsr (r : RegNum) (x : Rm) (s : State) : Host.Outcome State Fault Refusal :=
  runPlain false (scanRun r x (fun _ v => highestOne v)) s

def swapBytes (v : Word32) : Word32 :=
  v.extractLsb' 0 8 ++ v.extractLsb' 8 8 ++ v.extractLsb' 16 8 ++ v.extractLsb' 24 8

/-- R516: with OS = 16 the result is undefined. -/
def execBswap (r : RegNum) (s : State) : Host.Outcome State Fault Refusal :=
  runPlain false (do
    if ← ask State.os32 then putReg .d r (swapBytes (← getReg .d r)) else putReg .d r (← free 32)) s

/-- R517. -/
def execSetcc (cc : Cond) (x : Rm) (s : State) : Host.Outcome State Fault Refusal :=
  runPlain false (do writeRm .b x (if ← ask (·.cond cc) then 1#8 else 0#8)) s

/-! ## Exchange and operate (R530 to R532) -/

/-- R530: the r/m write is last. -/
def execXadd (w : Bool) (x : Rm) (r : RegNum) (s : State) : Host.Outcome State Fault Refusal :=
  runPlain (lockable x) (do
    let sz ← ask (·.wsz w)
    let l ← locate sz x true
    let dst ← l.read sz
    let src ← getReg sz r
    let t ← addOp sz dst src
    putReg sz r dst
    l.write sz t) s

/-- R531: a memory destination is written either way. -/
def execCmpxchg (w : Bool) (x : Rm) (r : RegNum) (s : State) : Host.Outcome State Fault Refusal :=
  runPlain (lockable x) (do
    let sz ← ask (·.wsz w)
    let l ← locate sz x true
    let dst ← l.read sz
    let acc ← getReg sz rAX
    let src ← getReg sz r
    update (·.subFlags acc dst false)
    if acc = dst then l.write sz src
    else
      l.write sz dst
      putReg sz rAX dst) s

/-- R532. -/
def execCmpxchg8b (m : MemRef) (s : State) : Host.Outcome State Fault Refusal :=
  runPlain true (do
    let addrs ← memAddrs m 8 true
    let v ← readAt 64 addrs
    let old ← ask (·.wide .d)
    putFlag fZF (old == v)
    if old = v then writeAt ((← getReg .d rCX) ++ (← getReg .d rBX)).toNat addrs
    else
      writeAt v.toNat addrs
      update (·.setWide .d v)) s

/-! ## Flag instructions (R540 to R546) -/

/-- R540. -/
def execClc (s : State) : Host.Outcome State Fault Refusal := runPlain false (putFlag fCF false) s
/-- R541. -/
def execStc (s : State) : Host.Outcome State Fault Refusal := runPlain false (putFlag fCF true) s
/-- R542. -/
def execCmc (s : State) : Host.Outcome State Fault Refusal := runPlain false (do putFlag fCF (!(← getFlag fCF))) s
/-- R543. -/
def execCld (s : State) : Host.Outcome State Fault Refusal := runPlain false (putFlag fDF false) s
/-- R544. -/
def execStd (s : State) : Host.Outcome State Fault Refusal := runPlain false (putFlag fDF true) s

/-- The byte SF ZF 0 AF 0 PF 1 CF (R545). -/
def State.flagByte (s : State) : Byte := ((s.eflags.setWidth 8) &&& 0xD5) ||| 0x02

/-- R545. -/
def execLahf (s : State) : Host.Outcome State Fault Refusal :=
  runPlain false (do putReg .b rAH (← ask State.flagByte)) s

/-- R546. -/
def execSahf (s : State) : Host.Outcome State Fault Refusal :=
  runPlain false (do
    let ah : Byte ← getReg .b rAH
    loadFlags (ah.setWidth 32) 0xD5) s

/-! ## Decimal adjust (R560 to R565) -/

/-- R560: any immediate is the divisor. -/
def execAam (n : Byte) (s : State) : Host.Outcome State Fault Refusal :=
  runPlain false (do
    if n = 0 then raiseDE
    let al : Byte ← getReg .b rAX
    putReg .b rAH (al / n)
    putReg .b rAX (al % n)
    update (·.resultFlags (al % n))
    undefFlags [fOF, fAF, fCF]) s

/-- R561. -/
def execAad (n : Byte) (s : State) : Host.Outcome State Fault Refusal :=
  runPlain false (do
    let al : Byte ← getReg .b rAX
    let ah : Byte ← getReg .b rAH
    let r := al + ah * n
    putReg .b rAX r
    putReg .b rAH (0#8)
    update (·.resultFlags r)
    undefFlags [fOF, fAF, fCF]) s

/-- The low digit of AL needs adjusting. -/
def State.lowDigitOver (s : State) : Bool := (9#8).ult ((s.readReg .b rAX : Byte) &&& 0x0F#8) || s.flag fAF

/-- R562 and R563: `f` adjusts AX. -/
def asciiAdjust (f : Word16 → Word16) : M Unit := do
  let adjust ← ask State.lowDigitOver
  if adjust then putReg .w rAX (f (← getReg .w rAX))
  putFlag fAF adjust
  putFlag fCF adjust
  putReg .b rAX ((← getReg .b rAX) &&& 0x0F#8)
  undefFlags [fOF, fSF, fZF, fPF]

/-- R562. -/
def execAaa (s : State) : Host.Outcome State Fault Refusal := runPlain false (asciiAdjust (· + 0x106)) s
/-- R563: AX - 6, then AH - 1. -/
def execAas (s : State) : Host.Outcome State Fault Refusal := runPlain false (asciiAdjust (· - 0x106)) s

/-- R564. -/
def execDaa (s : State) : Host.Outcome State Fault Refusal :=
  runPlain false (do
    let al : Byte ← getReg .b rAX
    let cf ← getFlag fCF
    let low ← ask State.lowDigitOver
    let high := (0x99#8).ult al || cf
    let r1 := if low then al + 6 else al
    let r2 := if high then r1 + 0x60 else r1
    putReg .b rAX r2
    putFlag fAF low
    putFlag fCF high
    update (·.resultFlags r2)
    undefFlag fOF) s

/-- R565: without the high adjustment CF keeps what the low one gave. -/
def execDas (s : State) : Host.Outcome State Fault Refusal :=
  runPlain false (do
    let al : Byte ← getReg .b rAX
    let cf ← getFlag fCF
    let low ← ask State.lowDigitOver
    let high := (0x99#8).ult al || cf
    let r1 := if low then al - 6 else al
    let r2 := if high then r1 - 0x60 else r1
    putReg .b rAX r2
    putFlag fAF low
    putFlag fCF (high || (low && al.ult 6))
    update (·.resultFlags r2)
    undefFlag fOF) s

end Sys2Proof.Machine
end

