-- ==== Sys2Proof/Machine/Control.lean ====
section
/-! DEFINITION. Control-transfer instructions (42_control_transfer). -/
namespace Sys2Proof.Machine

/-! ## Branches (R720 to R734) -/

/-- A relative branch (R720). -/
def branchRel (d : Imm) : M Word32 := do branchTo ((← ask State.nextPc) + relVal d)

/-- Branch if a condition holds, else go on. -/
def branchIf (c : Bool) (d : Imm) : M Word32 := if c then branchRel d else ask State.nextPc

/-- The target of a near JMP or CALL (R720). -/
def nearTarget (f : NearForm) : M Word32 :=
  match f with
  | .rel d => branchRel d
  | .rm x => do
    let sz ← ask State.osz
    branchTo ((← readRm sz x).setWidth 32)

/-- R730. -/
def execJmp (f : NearForm) (s : State) : Host.Outcome State Fault Refusal := runJump false false (nearTarget f) s

/-- The far pointer of a far JMP or CALL: offset and selector (R721). In memory they are two reads, each with its own checks
of limit and alignment, where 20_memory R209 lists a pointer as one width (DESIGN CHOICE, log 47). -/
def farPointer (f : FarForm) : M (Word32 × Word16) :=
  match f with
  | .ptr (.p16 o sel) => return (o.setWidth 32, sel)
  | .ptr (.p32 o sel) => return (o, sel)
  | .mem m => do
    let sz ← ask State.osz
    let off ← readMem sz.bits m
    let sel ← readMemPlus 16 m (BitVec.ofNat 32 sz.bytes)
    return (off.setWidth 32, sel)

/-- The new CS of a far JMP or CALL (R721). -/
def farSeg (sel : Word16) (off : Word32) : M SegReg := do
  let s ← ask id
  if s.pe then farTarget sel off else return realSeg s.cs sel

/-- Transfer to a new code segment, recorded as a branch. -/
def enterSeg (cs : SegReg) (off : Word32) : M Word32 := do
  update fun s => { s.recordBranch (s.cs.base + s.eip) (cs.base + off) with cs }
  return off

/-- R731. -/
def execJmpFar (f : FarForm) (s : State) : Host.Outcome State Fault Refusal :=
  runJump false false (do
    let (off, sel) ← farPointer f
    enterSeg (← farSeg sel off) off) s

/-- R732. -/
def execJcc (cc : Cond) (d : Imm) (s : State) : Host.Outcome State Fault Refusal :=
  runJump false false (branchIf (s.cond cc) d) s

/-- R733: CX or ECX by address size. -/
def execJcxz (d : Byte) (s : State) : Host.Outcome State Fault Refusal :=
  runJump false false (branchIf (s.asReg 1 == 0) (.i8 d)) s

/-- Count down (E)CX without flags and branch while it is not 0 and `c` holds (R734). -/
def loopRun (c : Bool) (d : Byte) : M Word32 := do
  update fun s => s.setAsReg rCX (s.asReg rCX - 1)
  let s ← ask id
  branchIf (s.asReg rCX != 0 && c) (.i8 d)

/-- R734. -/
def execLoop (d : Byte) (s : State) : Host.Outcome State Fault Refusal := runJump false false (loopRun true d) s
def execLoope (d : Byte) (s : State) : Host.Outcome State Fault Refusal := runJump false false (loopRun (s.flag fZF) d) s
def execLoopne (d : Byte) (s : State) : Host.Outcome State Fault Refusal := runJump false false (loopRun (!s.flag fZF) d) s

/-! ## Calls and returns (R740 to R743) -/

/-- R740: the target is checked before the push. -/
def execCall (f : NearForm) (s : State) : Host.Outcome State Fault Refusal :=
  runJump false false (do
    let t ← nearTarget f
    push s.osz.bytes s.nextPc
    return t) s

/-- R741. -/
def execCallFar (f : FarForm) (s : State) : Host.Outcome State Fault Refusal :=
  runJump false false (do
    let (off, sel) ← farPointer f
    let cs ← farSeg sel off
    pushAll s.osz.bytes [s.cs.sel.setWidth 32, s.nextPc]
    enterSeg cs off) s

def retBytes (n : Option Word16) : Nat := (n.getD 0).toNat

/-- R742. -/
def execRet (n : Option Word16) (s : State) : Host.Outcome State Fault Refusal :=
  runJump false false (do
    let t ← branchTo (← pop s.osz.bytes)
    release (retBytes n)
    return t) s

/-- R743. -/
def execRetf (n : Option Word16) (s : State) : Host.Outcome State Fault Refusal :=
  runJump false false (do
    let k := s.osz.bytes
    let (off, sel) ← returnAddress k
    if s.pe then returnFar k (off, sel) (retBytes n) (retBytes n)
    else
      release (2 * k + retBytes n)
      realFar sel
    update fun t => t.recordBranch (s.cs.base + s.eip) (t.cs.base + off)
    return off) s

/-! ## Software interrupts and interrupt return (R750 to R754) -/

/-- R750. -/
def execInt (n : Byte) (s : State) : Host.Outcome State Fault Refusal :=
  runPlain false (raise { vector := n, kind := .soft }) s

/-- R751. -/
def execInt3 (s : State) : Host.Outcome State Fault Refusal :=
  runPlain false (raise { vector := 3, kind := .soft }) s

/-- R752. -/
def execInto (s : State) : Host.Outcome State Fault Refusal :=
  runPlain false (if s.flag fOF then raise { vector := 4, kind := .soft } else return ()) s

/-- R753: RF stays as loaded (10_state R51). -/
def execIret (s : State) : Host.Outcome State Fault Refusal :=
  runJump false true (do
    let off ← iretBody
    update fun t => t.recordBranch (s.cs.base + s.eip) (t.cs.base + off)
    return off) s

/-- R754: two signed bounds in memory. -/
def execBound (r : RegNum) (m : MemRef) (s : State) : Host.Outcome State Fault Refusal :=
  runPlain false (do
    let lo ← readMem s.osz.bits m
    let hi ← readMemPlus s.osz.bits m (BitVec.ofNat 32 s.osz.bytes)
    let v := (s.readReg s.osz r).toInt
    if v < lo.toInt || hi.toInt < v then raiseBR) s

/-! ## Fast system call (R770, R771) -/

/-- The flat segments SYSENTER and SYSEXIT load. -/
def flatSeg (sel : Word16) (typ : BitVec 4) (dpl : BitVec 2) : SegReg :=
  { sel, base := 0, limit := 0xFFFFFFFF, typ, s := true, dpl, p := true, db := true, g := true }

/-- R770. -/
def execSysenter (s : State) : Host.Outcome State Fault Refusal :=
  runJump false false (do
    let cs : Word16 := s.msr.sysenterCs.setWidth 16
    if !s.pe || cs.extractLsb' 2 14 == 0 then raiseGP 0
    let sel := cs &&& 0xFFFC
    let eip := s.msr.sysenterEip.setWidth 32
    update fun t => (((t.setFlag fVM false).setFlag fIF false).setFlag fRF false).recordBranch (s.cs.base + s.eip) eip
    update fun t => { t with
      cs := flatSeg sel 11 0, ss := flatSeg (sel + 8) 3 0, cpl := 0
      gpr := { t.gpr with r4 := s.msr.sysenterEsp.setWidth 32 } }
    return eip) s

/-- R771. -/
def execSysexit (s : State) : Host.Outcome State Fault Refusal :=
  runJump false false (do
    let cs : Word16 := s.msr.sysenterCs.setWidth 16
    if !s.pe || s.cpl != 0 || cs.extractLsb' 2 14 == 0 then raiseGP 0
    let eip := s.reg32 rDX
    update (·.recordBranch (s.cs.base + s.eip) eip)
    update fun t => { t with
      cs := flatSeg ((cs + 16) ||| 3) 11 3, ss := flatSeg ((cs + 24) ||| 3) 3 3, cpl := 3
      gpr := { t.gpr with r4 := s.reg32 rCX } }
    return eip) s

end Sys2Proof.Machine
end

