-- ==== Sys2Proof/Machine/Data.lean ====
section
/-! DEFINITION. Data movement, stack, segment-load, string and I/O instructions (41_gp_data_string_io). -/
namespace Sys2Proof.Machine

/-! ## Moves (R600 to R612) -/

/-- R600, R601. -/
def execMov (f : MovForm) (s : State) : Host.Outcome State Fault Refusal :=
  runPlain false
    (match f with
     | .rmReg w x r => do writeRm (s.wsz w) x (← getReg (s.wsz w) r)
     | .regRm w r x => do putReg (s.wsz w) r (← readRm (s.wsz w) x)
     | .rmImm x (.i8 v) => writeRm .b x v
     | .rmImm x i => writeRm s.osz x (immVal s.osz i)
     | .regImm r (.i8 v) => putReg .b r v
     | .regImm r i => putReg s.osz r (immVal s.osz i)) s

/-- R602: the accumulator from a direct offset. -/
def execMovFromOffs (w : Bool) (o : MOffs) (s : State) : Host.Outcome State Fault Refusal :=
  runPlain false (do putReg (s.wsz w) rAX (← loadMem (s.wsz w).bits (s.dataSeg .ds) (moffsVal o))) s

/-- R602: the accumulator to a direct offset. -/
def execMovToOffs (w : Bool) (o : MOffs) (s : State) : Host.Outcome State Fault Refusal :=
  runPlain false (do storeMem (s.dataSeg .ds) (moffsVal o) (← getReg (s.wsz w) rAX)) s

/-- A load of SS starts the one-instruction inhibit (10_state R171). -/
def noteStackLoad (sr : Seg) : M Unit := if sr = .ss then update fun s => { s with ssShadow := true } else return ()

/-- R603: CS as the destination is #UD. -/
def execMovToSeg (sr : Seg) (x : Rm) (s : State) : Host.Outcome State Fault Refusal :=
  runPlain false (do
    if sr = .cs then raiseUD
    let sel : Word16 ← readRm .w x
    loadSeg sr sel
    noteStackLoad sr) s

/-- R603: 16 bits to memory; a 32-bit register destination is zero-extended. -/
def execMovFromSeg (x : Rm) (sr : Seg) (s : State) : Host.Outcome State Fault Refusal :=
  runPlain false
    (match x with
     | .reg r => putReg s.osz r ((s.seg sr).sel.setWidth s.osz.bits)
     | .mem m => writeMem m (s.seg sr).sel) s

/-- The source width of MOVSX and MOVZX: a byte or a word. -/
def extSz (w : Bool) : Sz := if w then .w else .b

/-- R604. -/
def execMovsx (w : Bool) (r : RegNum) (x : Rm) (s : State) : Host.Outcome State Fault Refusal :=
  runPlain false (do putReg s.osz r ((← readRm (extSz w) x).signExtend s.osz.bits)) s

/-- R605. -/
def execMovzx (w : Bool) (r : RegNum) (x : Rm) (s : State) : Host.Outcome State Fault Refusal :=
  runPlain false (do putReg s.osz r ((← readRm (extSz w) x).setWidth s.osz.bits)) s

/-- Exchange a register with a register-or-memory operand. -/
def exchange (sz : Sz) (x : Rm) (r : RegNum) : M Unit := do
  let l ← locate sz x true
  let a ← l.read sz
  let b ← getReg sz r
  putReg sz r a
  l.write sz b

/-- R606. -/
def execXchg (f : XchgForm) (s : State) : Host.Outcome State Fault Refusal :=
  match f with
  | .rmReg w x r => runPlain (lockable x) (exchange (s.wsz w) x r) s
  | .acc r => runPlain false (exchange s.osz (.reg r) rAX) s

/-- R612. -/
def execNop (s : State) : Host.Outcome State Fault Refusal := runPlain false (return ()) s

/-- R607: no access; the offset is truncated or zero-extended to OS. -/
def execLea (r : RegNum) (m : MemRef) (s : State) : Host.Outcome State Fault Refusal :=
  runPlain false (putReg s.osz r ((s.ea m).setWidth s.osz.bits)) s

/-- R608: the operand is read whether or not the condition holds. -/
def execCmovcc (cc : Cond) (r : RegNum) (x : Rm) (s : State) : Host.Outcome State Fault Refusal :=
  runPlain false (do
    let v ← readRm s.osz x
    if s.cond cc then putReg s.osz r v) s

/-- R609. -/
def execCbw (s : State) : Host.Outcome State Fault Refusal :=
  runPlain false
    (if s.os32 then putReg .d rAX ((s.readReg .w rAX).signExtend 32)
     else putReg .w rAX ((s.readReg .b rAX).signExtend 16)) s

/-- R610. -/
def execCwd (s : State) : Host.Outcome State Fault Refusal :=
  runPlain false (putReg s.osz rDX (if (s.readReg s.osz rAX).msb then BitVec.allOnes s.osz.bits else 0)) s

/-- R611. -/
def execXlat (s : State) : Host.Outcome State Fault Refusal :=
  runPlain false (do
    let off := s.maskAs (s.reg32 rBX + (s.readReg .b rAX).setWidth 32)
    let v : Byte ← loadMem 8 (s.dataSeg .ds) off
    putReg .b rAX v) s

/-! ## Stack (R620 to R633) -/

/-- R621, R622: a selector's slot has a free upper half when OS = 32 (93 U16). -/
def execPush (f : PushForm) (s : State) : Host.Outcome State Fault Refusal :=
  runPlain false
    (match f with
     | .rm x => do push s.osz.bytes ((← readRm s.osz x).setWidth 32)
     | .reg r => push s.osz.bytes ((s.readReg s.osz r).setWidth 32)
     | .imm i => push s.osz.bytes ((immVal s.osz i).setWidth 32)
     | .seg sr => do push s.osz.bytes (← selSlot s.osz.bytes (s.seg sr).sel)) s

/-- R623, R624. The stack pointer moves before a destination is written, so POP ESP leaves the popped value; a segment
register is loaded before it moves, by the width of the SS that was there before (log 38). -/
def execPop (f : PopForm) (s : State) : Host.Outcome State Fault Refusal :=
  runPlain false
    (match f with
     | .rm x => do
       let v ← pop s.osz.bytes
       writeRm s.osz x (v.setWidth s.osz.bits)
     | .reg r => do
       let v ← pop s.osz.bytes
       putReg s.osz r (v.setWidth s.osz.bits)
     | .seg sr => do
       let v ← peek s.osz.bytes 0
       loadSeg sr (v.setWidth 16)
       setEsp (s.espPlus (BitVec.ofNat 32 s.osz.bytes))
       noteStackLoad sr) s

/-- R625. -/
def execPusha (s : State) : Host.Outcome State Fault Refusal :=
  runPlain false (pushAll s.osz.bytes [s.reg32 rAX, s.reg32 rCX, s.reg32 rDX, s.reg32 rBX, s.reg32 rSP, s.reg32 rBP,
    s.reg32 rSI, s.reg32 rDI]) s

/-- Pop into each register in turn. -/
def popInto (sz : Sz) : List RegNum → M Unit
  | [] => return ()
  | r :: rest => do
    let v ← pop sz.bytes
    putReg sz r (v.setWidth sz.bits)
    popInto sz rest

/-- R626: the saved stack pointer is skipped. Its slot is read like the others, with the checks and the data breakpoints of
a read, though the rule says only that it is skipped (DESIGN CHOICE, log 38). -/
def execPopa (s : State) : Host.Outcome State Fault Refusal :=
  runPlain false (do
    popInto s.osz [rDI, rSI, rBP]
    let _ ← pop s.osz.bytes
    popInto s.osz [rBX, rDX, rCX, rAX]) s

/-- R630: VM and RF are pushed as 0. -/
def execPushf (s : State) : Host.Outcome State Fault Refusal :=
  runPlain false (push s.osz.bytes (s.eflags &&& 0x00FCFFFF)) s

/-- R631: a 32-bit POPF clears RF. 10_state R54 says that POPF does not change RF; R631 is the rule of the instruction and
holds (90_conflicts, precedence; DEDUCED, log 41). -/
def execPopf (s : State) : Host.Outcome State Fault Refusal :=
  runJump false true (do
    let v ← pop s.osz.bytes
    loadFlags v (flagsMask s s.os32 false)
    if s.os32 then putFlag fRF false
    return s.nextPc) s

/-- The places of the k frame pointers ENTER copies, each from below `bp` to the slot of a push below `esp`, checked in
their order (R632); the last stack pointer. -/
def enterSlots (n : Nat) (esp bp : Word32) : Nat → M (List (List Nat × List Nat) × Word32)
  | 0 => return ([], esp)
  | k + 1 => do
    let bp := bp - BitVec.ofNat 32 n
    let source ← dataAddrs .ss (← ask (·.stackOff bp)) n false
    let (slot, t) ← slotBelow n esp
    let (rest, last) ← enterSlots n t bp k
    return ((source, slot) :: rest, last)

/-- Copy from each source to its slot, one after the other. -/
def enterCopies : List (List Nat × List Nat) → M Unit
  | [] => return ()
  | (source, slot) :: rest => do
    let v : Word32 ← readAt 32 source
    writeAt v.toNat slot
    enterCopies rest

/-- A register as wide as the stack pointer (SS.B). -/
def putStackReg (r : RegNum) (v : Word32) : M Unit :=
  update fun s => if s.stack32 then s.writeReg .d r v else s.writeReg .w r (v.setWidth 16)

/-- R632: the level counts modulo 32. The accesses are checked in their order, every one before the first write. While
SS.B = 0 the frame pointer is SP: BP alone is set, and a doubleword slot of it has a zero upper half; while SS.B = 1 the whole
EBP is set, with a 16-bit operand size too: R632 does not say whether OS or SS.B gives the width (DESIGN CHOICE, log 38). -/
def execEnter (size : Word16) (level : Byte) (s : State) : Host.Outcome State Fault Refusal :=
  runPlain false (do
    let n := s.osz.bytes
    let k := level.toNat % 32
    let (saved, top) ← slotBelow n s.esp
    let (copies, below) ← enterSlots n top (s.reg32 rBP) (k - 1)
    let (slots, last) ← pushSlots n below (if k = 0 then 0 else 1)
    let frame := s.stackOff top
    writeAt (s.reg32 rBP).toNat saved
    enterCopies copies
    writeSlots [frame] slots
    setEsp last
    putStackReg rBP frame
    setEsp (← ask (·.espPlus (-(size.setWidth 32))))) s

/-- R633. -/
def execLeave (s : State) : Host.Outcome State Fault Refusal :=
  runPlain false (do
    putStackReg rSP (s.reg32 rBP)
    let v ← pop s.osz.bytes
    putReg s.osz rBP (v.setWidth s.osz.bits)) s

/-! ## Loading far pointers (R641) -/

/-- Offset, then selector; nothing is written if the load faults. -/
def loadFar (sr : Seg) (r : RegNum) (m : MemRef) : M Unit := do
  let sz ← ask State.osz
  let off ← readMem sz.bits m
  let sel ← readMemPlus 16 m (BitVec.ofNat 32 sz.bytes)
  loadSeg sr sel
  putReg sz r off

def execLds (r : RegNum) (m : MemRef) (s : State) : Host.Outcome State Fault Refusal := runPlain false (loadFar .ds r m) s
def execLes (r : RegNum) (m : MemRef) (s : State) : Host.Outcome State Fault Refusal := runPlain false (loadFar .es r m) s
def execLfs (r : RegNum) (m : MemRef) (s : State) : Host.Outcome State Fault Refusal := runPlain false (loadFar .fs r m) s
def execLgs (r : RegNum) (m : MemRef) (s : State) : Host.Outcome State Fault Refusal := runPlain false (loadFar .gs r m) s
/-- LSS starts the one-instruction inhibit. -/
def execLss (r : RegNum) (m : MemRef) (s : State) : Host.Outcome State Fault Refusal :=
  runPlain false (do
    loadFar .ss r m
    noteStackLoad .ss) s

/-! ## Strings (R660 to R680) -/

/-- The index after an element of n bytes (R660). -/
def State.stringNext (s : State) (r : RegNum) (n : Nat) : Word32 :=
  if s.flag fDF then s.asReg r - BitVec.ofNat 32 n else s.asReg r + BitVec.ofNat 32 n

def advance (r : RegNum) (n : Nat) : M Unit := update fun s => s.setAsReg r (s.stringNext r n)

/-- Read the element at the source index, in DS or the override. -/
def loadSource (sz : Sz) : M (BitVec sz.bits) := do
  let s ← ask id
  loadMem sz.bits (s.dataSeg .ds) (s.asReg rSI)

/-- Read the element at ES:(E)DI. -/
def loadDest (sz : Sz) : M (BitVec sz.bits) := do
  let s ← ask id
  loadMem sz.bits .es (s.asReg rDI)

def storeDest (sz : Sz) (v : BitVec sz.bits) : M Unit := do
  let s ← ask id
  storeMem .es (s.asReg rDI) v

/-- After an iteration (R680): the instruction is done when the count is used up or, for CMPS and SCAS, when ZF ends the
repetition; else the next step runs it again. -/
def repNext (compares repe : Bool) : M Word32 := do
  update fun s => s.setAsReg rCX (s.asReg rCX - 1)
  let s ← ask id
  if s.asReg rCX = 0 || (compares && s.flag fZF != repe) then return s.nextPc
  update fun s => { s with repBusy := true }
  return s.eip

/-- A string instruction with its repeat prefix, one iteration a step (R680, 92 D18). With a count of 0 it completes without
an iteration, and INS and OUTS then leave no mark of an I/O instruction for IO_SMI, of which 60 R1605 does not say (DESIGN
CHOICE, log 8). -/
def stringRun (compares : Bool) (iter : M Unit) (s : State) : Host.Outcome State Fault Refusal :=
  match s.cur.rep with
  | none => runPlain false iter s
  | some repe =>
    runJump false false (if s.asReg rCX = 0 then return s.nextPc else do
      iter
      repNext compares repe) s

/-- R661. -/
def execMovs (w : Bool) (s : State) : Host.Outcome State Fault Refusal :=
  stringRun false (do
    storeDest (s.wsz w) (← loadSource (s.wsz w))
    advance rSI (s.wsz w).bytes
    advance rDI (s.wsz w).bytes) s

/-- R662. -/
def execCmps (w : Bool) (s : State) : Host.Outcome State Fault Refusal :=
  stringRun true (do
    let a ← loadSource (s.wsz w)
    let b ← loadDest (s.wsz w)
    update (·.subFlags a b false)
    advance rSI (s.wsz w).bytes
    advance rDI (s.wsz w).bytes) s

/-- R665. -/
def execStos (w : Bool) (s : State) : Host.Outcome State Fault Refusal :=
  stringRun false (do
    storeDest (s.wsz w) (← getReg (s.wsz w) rAX)
    advance rDI (s.wsz w).bytes) s

/-- R664. -/
def execLods (w : Bool) (s : State) : Host.Outcome State Fault Refusal :=
  stringRun false (do
    putReg (s.wsz w) rAX (← loadSource (s.wsz w))
    advance rSI (s.wsz w).bytes) s

/-- R663. -/
def execScas (w : Bool) (s : State) : Host.Outcome State Fault Refusal :=
  stringRun true (do
    let b ← loadDest (s.wsz w)
    let a ← getReg (s.wsz w) rAX
    update (·.subFlags a b false)
    advance rDI (s.wsz w).bytes) s

/-! ## I/O (R666, R667, R700 to R702) -/

/-- The I/O permission bit map (R700). -/
def checkPort (port : Word16) (n : Nat) : M Unit := do
  let s ← ask id
  if s.pe && s.iopl < s.cpl then
    let base ← sysRead (s.tr.base + 0x66) 2
    let last := base + (port.toNat + n - 1) / 8
    if s.tr.limit.toNat < last then raiseGP 0
    let lo := port.toNat / 8
    let bits ← sysRead (s.tr.base + BitVec.ofNat 32 (base + lo)) ((port.toNat + n - 1) / 8 - lo + 1)
    if (bits / 2 ^ (port.toNat % 8)) % 2 ^ n != 0 then raiseGP 0

/-- Table 13-15's length code. -/
def ioLen (n : Nat) : BitVec 3 := BitVec.ofNat 3 n

/-- What the n ports from `port` on answer to the read number k, the first byte lowest (20_memory R203); a read beyond port
FFFFH goes on at port 0 (DESIGN CHOICE, log 12). -/
def portBytes (port : Word16) (k : Nat) : Nat → Nat
  | 0 => 0
  | n + 1 => (Config.platformIo port k).toNat + 256 * portBytes (port + 1) k n

/-- A port read: what comes is the platform's (R701; PLATFORM_IO, log 12). -/
def ioRead (sz : Sz) (port : Word16) : M (BitVec sz.bits) := do
  noteIo port sz.bytes
  return BitVec.ofNat sz.bits (portBytes port (← nextDraw) sz.bytes)

/-- A port write, put on record for the platform (R702, log 12). -/
def ioWrite (sz : Sz) (port : Word16) (v : BitVec sz.bits) : M Unit := do
  noteIo port sz.bytes
  update fun s => { s with ioOut := s.ioOut ++ [{ port, bytes := sz.bytes, value := v.setWidth 32 }] }

/-- The registers an I/O instruction starts from. -/
def State.ioStart (s : State) : IoStart := { eip := s.eip, ecx := s.reg32 rCX, esi := s.reg32 rSI, edi := s.reg32 rDI }

/-- Remember the I/O access of an instruction that started from `start`, for SMM entry (60 R1605, R1606). -/
def noteLastIo (start : IoStart) (port : Word16) (typ : BitVec 4) (n : Nat) (before after : Word32) : M Unit :=
  update fun s => { s with lastIo := some { start, port, typ, len := ioLen n, addrBefore := before, addrAfter := after } }

/-- Bit 2 of the type says REP (60 R1606). -/
def State.ioRep (s : State) : BitVec 4 := if s.cur.rep.isSome then 4 else 0

def State.dxPort (s : State) : Word16 := s.readReg .w rDX

/-- R666: the memory write is checked before the port is read. -/
def execIns (w : Bool) (s : State) : Host.Outcome State Fault Refusal :=
  stringRun false (do
    let n := (s.wsz w).bytes
    checkPort s.dxPort n
    let addrs ← dataAddrs .es (s.asReg rDI) n true
    let v ← ioRead (s.wsz w) s.dxPort
    writeAt v.toNat addrs
    noteLastIo s.ioStart s.dxPort (3 ||| s.ioRep) n (s.es.base + s.asReg rDI) (s.es.base + s.maskAs (s.stringNext rDI n))
    advance rDI n) s

/-- R667. -/
def execOuts (w : Bool) (s : State) : Host.Outcome State Fault Refusal :=
  stringRun false (do
    let n := (s.wsz w).bytes
    checkPort s.dxPort n
    let v ← loadSource (s.wsz w)
    ioWrite (s.wsz w) s.dxPort v
    let base := (s.seg (s.dataSeg .ds)).base
    noteLastIo s.ioStart s.dxPort (2 ||| s.ioRep) n (base + s.asReg rSI) (base + s.maskAs (s.stringNext rSI n))
    advance rSI n) s

def State.portOf (s : State) (f : PortForm) : Word16 :=
  match f with
  | .imm _ p => p.setWidth 16
  | .dx _ => s.dxPort

def portW (f : PortForm) : Bool :=
  match f with
  | .imm w _ => w
  | .dx w => w

/-- Bit 3 of the type says an immediate port (60 R1606). -/
def portType (f : PortForm) (input : BitVec 4) : BitVec 4 :=
  match f with
  | .imm _ _ => 8 ||| input
  | .dx _ => input

/-- R701. -/
def execInPort (f : PortForm) (s : State) : Host.Outcome State Fault Refusal :=
  runPlain false (do
    let sz := s.wsz (portW f)
    checkPort (s.portOf f) sz.bytes
    putReg sz rAX (← ioRead sz (s.portOf f))
    noteLastIo s.ioStart (s.portOf f) (portType f 1) sz.bytes 0 0) s

/-- R702. -/
def execOutPort (f : PortForm) (s : State) : Host.Outcome State Fault Refusal :=
  runPlain false (do
    let sz := s.wsz (portW f)
    checkPort (s.portOf f) sz.bytes
    ioWrite sz (s.portOf f) (← getReg sz rAX)
    noteLastIo s.ioStart (s.portOf f) (portType f 0) sz.bytes 0 0) s

end Sys2Proof.Machine
end

