-- ==== Sys2Proof/Machine/Float.lean ====
section
/-! DEFINITION. Floating-point numbers: exact values, rounding (44 R922, 46 R1143), the single, double and extended
formats and the integer and decimal ones (44 R921). An arithmetic operation is computed exactly, then rounded once. -/
namespace Sys2Proof.Machine

/-! ## Exact values and rounding -/

/-- A nonzero magnitude mant * 2^exp with a sign; when `sticky`, a positive rest below 2^exp is added to it. -/
structure Exact where
  neg : Bool
  mant : Nat
  exp : Int
  sticky : Bool := false
  deriving DecidableEq, Repr

/-- The exponent of the leading bit. -/
def Exact.top (x : Exact) : Int := x.exp + (Nat.log2 x.mant : Int)

/-- What lies below the last place kept. -/
inductive Rest where
  | zero | below | half | above
  deriving DecidableEq, Repr

/-- Whether the magnitude is rounded up, by rounding mode RC (44 R922): nearest even, down, up, toward zero. -/
def roundsUp (rc : BitVec 2) (neg odd : Bool) (r : Rest) : Bool :=
  match rc.toNat with
  | 0 => r == .above || (r == .half && odd)
  | 1 => neg && r != .zero
  | 2 => !neg && r != .zero
  | _ => false

/-- A magnitude rounded to a whole number of units. -/
structure Rounded where
  q : Nat
  inexact : Bool
  up : Bool
  deriving DecidableEq, Repr

/-- Round to a multiple of 2^e. A sticky value must have its last place below e. -/
def Exact.roundAt (x : Exact) (rc : BitVec 2) (e : Int) : Rounded :=
  let k := (e - x.exp).toNat
  let q := x.mant * 2 ^ (x.exp - e).toNat / 2 ^ k
  let r := x.mant % 2 ^ k
  let rest : Rest :=
    if r = 0 ∧ !x.sticky then .zero
    else if 2 * r < 2 ^ k ∨ k = 0 then .below
    else if 2 * r = 2 ^ k ∧ !x.sticky then .half
    else .above
  let up := roundsUp rc x.neg (q % 2 == 1) rest
  { q := if up then q + 1 else q, inexact := rest != .zero, up }

/-! ## Formats (44 R921) -/

/-- A format: significand bits with the integer bit, and the largest exponent. -/
structure Fmt where
  p : Nat
  emax : Int
  deriving DecidableEq, Repr

def Fmt.single : Fmt := { p := 24, emax := 127 }
def Fmt.double : Fmt := { p := 53, emax := 1023 }
def Fmt.extended : Fmt := { p := 64, emax := 16383 }

def Fmt.emin (f : Fmt) : Int := 1 - f.emax
/-- The exponent field of infinities and NaNs. -/
def Fmt.special (f : Fmt) : Nat := (2 * f.emax + 1).toNat

/-- An encoded magnitude: the exponent field and the significand with its integer bit. -/
structure Packed where
  exp : Nat
  sig : Nat
  deriving DecidableEq, Repr

/-- Encode q * 2^e, which the format must be able to hold exactly. -/
def Fmt.pack (f : Fmt) (q : Nat) (e : Int) : Packed :=
  if q = 0 then { exp := 0, sig := 0 }
  else
    let n := Nat.log2 q
    let top := e + (n : Int)
    if top < f.emin then { exp := 0, sig := q * 2 ^ (e - (f.emin - ((f.p : Int) - 1))).toNat }
    else { exp := (top + f.emax).toNat, sig := q * 2 ^ (f.p - 1 - n) / 2 ^ (n - (f.p - 1)) }

def Fmt.inf (f : Fmt) : Packed := { exp := f.special, sig := 2 ^ (f.p - 1) }
def Fmt.largest (f : Fmt) : Packed := { exp := f.special - 1, sig := 2 ^ f.p - 1 }

/-- Overflow gives infinity, else the largest finite magnitude (44 R923). -/
def overflowsToInf (rc : BitVec 2) (neg : Bool) : Bool :=
  match rc.toNat with
  | 0 => true
  | 1 => neg
  | 2 => !neg
  | _ => false

/-- The exception flag at a place of the x87 status word and of MXCSR (10_state R93, R104). -/
abbrev xFlag (place : Nat) : Byte := 1#8 <<< place

/-- invalid operand -/
def xIE : Byte := xFlag 0
/-- denormal operand -/
def xDE : Byte := xFlag 1
/-- division by zero -/
def xZE : Byte := xFlag 2
def flagIf (c : Bool) (f : Byte) : Byte := if c then f else 0

/-- overflow -/
def xOE : Byte := xFlag 3
/-- underflow -/
def xUE : Byte := xFlag 4
/-- precision -/
def xPE : Byte := xFlag 5
/-- stack fault, x87 only -/
def xSF : Byte := xFlag 6

/-- A rounded result: the magnitude, the flags it raises, and whether it was rounded up. -/
structure FpOut where
  val : Packed
  flags : Byte
  up : Bool
  deriving DecidableEq, Repr

/-- Round to precision p in a format (44 R922, R923; 46 R1143). `masks` holds the exception masks at the places of the
flags. An unmasked overflow or underflow gives the result with its exponent moved by `wrap`. Tininess is detected before
rounding (44 R922; log 17). With p below the format's own precision the spec does not name the largest finite number of a
masked overflow nor the last place of a masked denormal: they are the format's largest, all ones, and the place p - 1 below
the smallest exponent (DESIGN CHOICE, log 16). Beside an unmasked overflow or underflow the precision flag says whether the
rounding to p bits with the exponent unbounded was inexact: 44 R922 says so, 46 R1143 and 47 R1263 say only that the result is
inexact (DESIGN CHOICE, log 17). -/
def Fmt.round (f : Fmt) (p : Nat) (rc : BitVec 2) (masks : Byte) (wrap : Int) (x : Exact) : FpOut :=
  let e := x.top - ((p : Int) - 1)
  let r := x.roundAt rc e
  let overflow := decide (f.emax < (if r.q = 2 ^ p then x.top + 1 else x.top))
  let tiny := decide (x.top < f.emin)
  if overflow then
    if masks &&& xOE != 0 then
      let inf := overflowsToInf rc x.neg
      { val := if inf then f.inf else f.largest, flags := xOE ||| xPE, up := inf }
    else { val := f.pack r.q (e - wrap), flags := xOE ||| flagIf r.inexact xPE, up := r.up }
  else if tiny then
    if masks &&& xUE != 0 then
      let d := x.roundAt rc (f.emin - ((p : Int) - 1))
      { val := f.pack d.q (f.emin - ((p : Int) - 1)), flags := flagIf d.inexact (xUE ||| xPE), up := d.up }
    else { val := f.pack r.q (e + wrap), flags := xUE ||| flagIf r.inexact xPE, up := r.up }
  else { val := f.pack r.q e, flags := flagIf r.inexact xPE, up := r.up }

/-! ## Exact operations -/

/-- The signed sum of two magnitudes; none when it is zero. -/
def Exact.add (x y : Exact) : Option Exact :=
  let e := min x.exp y.exp
  let val (z : Exact) : Int := (if z.neg then -1 else 1) * ((z.mant * 2 ^ (z.exp - e).toNat : Nat) : Int)
  let n := val x + val y
  if n = 0 then none else some { neg := decide (n < 0), mant := n.natAbs, exp := e }

def Exact.mul (x y : Exact) : Exact := { neg := x.neg != y.neg, mant := x.mant * y.mant, exp := x.exp + y.exp }

/-- The quotient to 132 places beyond the operands', enough for every precision. -/
def Exact.div (x y : Exact) : Exact :=
  let n := x.mant * 2 ^ 132
  { neg := x.neg != y.neg, mant := n / y.mant, exp := x.exp - y.exp - 132, sticky := n % y.mant != 0 }

/-- The integer square root, bit by bit from 2^k down. -/
def isqrt (n : Nat) : Nat → Nat → Nat
  | 0, r => r
  | k + 1, r => isqrt n k (if (r + 2 ^ k) * (r + 2 ^ k) ≤ n then r + 2 ^ k else r)

/-- The square root of a positive value with at most 64 significant bits. -/
def Exact.sqrt (x : Exact) : Exact :=
  let s := 140 + (x.exp % 2).toNat
  let n := x.mant * 2 ^ s
  let r := isqrt n 106 0
  { neg := false, mant := r, exp := (x.exp - (s : Int)) / 2, sticky := r * r != n }

/-- Compare two values of which either may be zero (none). -/
def exactCmp (x y : Option Exact) : Ordering :=
  let val (e : Int) (z : Option Exact) : Int :=
    match z with
    | none => 0
    | some z => (if z.neg then -1 else 1) * ((z.mant * 2 ^ (z.exp - e).toNat : Nat) : Int)
  let expOf (z : Option Exact) (d : Int) : Int := match z with | none => d | some z => z.exp
  let e := min (expOf x (expOf y 0)) (expOf y (expOf x 0))
  compare (val e x) (val e y)

/-- Round to an integer (44 R934): the signed value, whether it changed, and whether the magnitude grew. -/
def Exact.toInteger (x : Exact) (rc : BitVec 2) : Int × Bool × Bool :=
  let r := x.roundAt rc 0
  ((if x.neg then -1 else 1) * (r.q : Int), r.inexact, r.up)

/-! ## Values that are not NaNs, and the operations on them -/

/-- A zero, an infinity or a finite nonzero number. -/
inductive Val where
  | zero (neg : Bool) | inf (neg : Bool) | fin (x : Exact)
  deriving DecidableEq, Repr

def Val.neg : Val → Bool
  | .zero n => n | .inf n => n | .fin x => x.neg

def Val.negate : Val → Val
  | .zero n => .zero !n | .inf n => .inf !n | .fin x => .fin { x with neg := !x.neg }

/-- What an operation gives before rounding. -/
inductive Op where
  | invalid | zeroDiv (neg : Bool) | val (v : Val)
  deriving DecidableEq, Repr

/-- The sign of an exact zero sum of values that differ in sign (44 R922). -/
def zeroSum (rc : BitVec 2) : Val := .zero (rc == 1)

def opAdd (rc : BitVec 2) (a b : Val) : Op :=
  match a, b with
  | .inf m, .inf n => if m = n then .val a else .invalid
  | .inf _, _ => .val a
  | _, .inf _ => .val b
  | .zero m, .zero n => .val (if m = n then a else zeroSum rc)
  | .zero _, .fin _ => .val b
  | .fin _, .zero _ => .val a
  | .fin x, .fin y => match Exact.add x y with | some z => .val (.fin z) | none => .val (zeroSum rc)

def opSub (rc : BitVec 2) (a b : Val) : Op := opAdd rc a b.negate

def opMul (a b : Val) : Op :=
  let n := a.neg != b.neg
  match a, b with
  | .inf _, .zero _ => .invalid
  | .zero _, .inf _ => .invalid
  | .inf _, _ => .val (.inf n)
  | _, .inf _ => .val (.inf n)
  | .zero _, _ => .val (.zero n)
  | _, .zero _ => .val (.zero n)
  | .fin x, .fin y => .val (.fin (x.mul y))

def opDiv (a b : Val) : Op :=
  let n := a.neg != b.neg
  match a, b with
  | .inf _, .inf _ => .invalid
  | .zero _, .zero _ => .invalid
  | .inf _, _ => .val (.inf n)
  | _, .inf _ => .val (.zero n)
  | .zero _, _ => .val (.zero n)
  | .fin _, .zero _ => .zeroDiv n
  | .fin x, .fin y => .val (.fin (x.div y))

def opSqrt (a : Val) : Op :=
  match a with
  | .zero _ => .val a
  | .inf n => if n then .invalid else .val a
  | .fin x => if x.neg then .invalid else .val (.fin x.sqrt)

/-- An integer as a value. -/
def exactOfInt (n : Int) : Val :=
  if n = 0 then .zero false else .fin { neg := decide (n < 0), mant := n.natAbs, exp := 0 }

def Val.exact : Val → Option Exact
  | .fin x => some x
  | _ => none

/-- Order two values (44 R926): the zeros are equal. -/
def valCmp (a b : Val) : Ordering :=
  match a, b with
  | .inf m, .inf n => if m = n then .eq else if m then .lt else .gt
  | .inf m, _ => if m then .lt else .gt
  | _, .inf n => if n then .gt else .lt
  | _, _ => exactCmp a.exact b.exact

/-! ## Extended values (44 R921) -/

/-- Classes of a value. -/
inductive Cls where
  | zero | denormal | normal | inf | snan | qnan | unsupported
  deriving DecidableEq, Repr

def extNeg (v : Word80) : Bool := v.getLsbD 79
def extExp (v : Word80) : Nat := (v.extractLsb' 64 15).toNat
def extSig (v : Word80) : Word64 := v.extractLsb' 0 64

/-- The class of an extended value; pseudo-denormals count as denormal, as they do for #D (44 R923). -/
def extCls (v : Word80) : Cls :=
  if extExp v = 0 then (if extSig v = 0 then .zero else .denormal)
  else if !(extSig v).getLsbD 63 then .unsupported
  else if extExp v < 0x7FFF then .normal
  else if extSig v = 0x8000000000000000 then .inf
  else if (extSig v).getLsbD 62 then .qnan
  else .snan

/-- The value of a finite nonzero extended number. -/
def extExact (v : Word80) : Exact :=
  { neg := extNeg v, mant := (extSig v).toNat, exp := (max (extExp v) 1 : Nat) - 16446 }

/-- The value of an extended number that is not a NaN. -/
def extVal (v : Word80) : Val :=
  match extCls v with
  | .zero => .zero (extNeg v)
  | .inf => .inf (extNeg v)
  | _ => .fin (extExact v)

def extOf (neg : Bool) (m : Packed) : Word80 :=
  BitVec.ofBool neg ++ BitVec.ofNat 15 m.exp ++ BitVec.ofNat 64 m.sig

def extZero (neg : Bool) : Word80 := extOf neg { exp := 0, sig := 0 }
def extInf (neg : Bool) : Word80 := extOf neg Fmt.extended.inf
/-- The real indefinite. -/
def extIndefinite : Word80 := 0xFFFFC000000000000000
def extQuiet (v : Word80) : Word80 := setBit v 62 true

/-- An integer with at most 64 significant bits as an extended value (44 R933). -/
def extOfInt (n : Int) : Word80 :=
  match exactOfInt n with
  | .fin x => extOf x.neg (Fmt.extended.pack x.mant 0)
  | _ => 0

/-! ## Single and double values -/

def fpNeg (f : Fmt) (v : Nat) : Bool := v.testBit (Nat.log2 (f.special + 1) + f.p - 1)
def fpExp (f : Fmt) (v : Nat) : Nat := v / 2 ^ (f.p - 1) % (f.special + 1)
def fpFrac (f : Fmt) (v : Nat) : Nat := v % 2 ^ (f.p - 1)

def fpCls (f : Fmt) (v : Nat) : Cls :=
  if fpExp f v = 0 then (if fpFrac f v = 0 then .zero else .denormal)
  else if fpExp f v < f.special then .normal
  else if fpFrac f v = 0 then .inf
  else if (fpFrac f v).testBit (f.p - 2) then .qnan
  else .snan

/-- The value of a finite nonzero number. -/
def fpExact (f : Fmt) (v : Nat) : Exact :=
  let e := fpExp f v
  { neg := fpNeg f v, mant := fpFrac f v + (if e = 0 then 0 else 2 ^ (f.p - 1))
    exp := (max e 1 : Nat) - f.emax - ((f.p : Int) - 1) }

/-- The value of a number that is not a NaN. -/
def fpVal (f : Fmt) (v : Nat) : Val :=
  match fpCls f v with
  | .zero => .zero (fpNeg f v)
  | .inf => .inf (fpNeg f v)
  | _ => .fin (fpExact f v)

/-- The bits of an encoded magnitude with a sign; the integer bit is implicit. -/
def fpOf (f : Fmt) (neg : Bool) (m : Packed) : Nat :=
  (if neg then (f.special + 1) * 2 ^ (f.p - 1) else 0) + m.exp * 2 ^ (f.p - 1) + m.sig % 2 ^ (f.p - 1)

def fpZero (f : Fmt) (neg : Bool) : Nat := fpOf f neg { exp := 0, sig := 0 }
def fpInf (f : Fmt) (neg : Bool) : Nat := fpOf f neg f.inf
/-- The QNaN real indefinite. -/
def fpIndefinite (f : Fmt) : Nat := fpOf f true { exp := f.special, sig := 2 ^ (f.p - 1) + 2 ^ (f.p - 2) }
def fpQuiet (f : Fmt) (v : Nat) : Nat := v ||| 2 ^ (f.p - 2)

/-- A single or double value as an extended one, the bits of a NaN kept (44 R930). -/
def extOfFp (f : Fmt) (v : Nat) : Word80 :=
  match fpCls f v with
  | .zero => extZero (fpNeg f v)
  | .denormal => let x := fpExact f v; extOf x.neg (Fmt.extended.pack x.mant x.exp)
  | .normal => let x := fpExact f v; extOf x.neg (Fmt.extended.pack x.mant x.exp)
  | .inf => extInf (fpNeg f v)
  | _ => extOf (fpNeg f v) { exp := 0x7FFF, sig := 2 ^ 63 + fpFrac f v * 2 ^ (64 - f.p) }

/-- A NaN of another format in this one: quieted, the significand aligned at its top (44 R931, 47). -/
def fpOfNan (f g : Fmt) (v : Nat) : Nat :=
  let frac := fpFrac g v * 2 ^ (f.p - g.p) / 2 ^ (g.p - f.p)
  fpQuiet f (fpOf f (fpNeg g v) { exp := f.special, sig := frac })

/-! ## Packed decimal (44 R921) -/

/-- The number in the low n digits, one digit in four bits, and whether a digit is above 9. -/
def bcdValue (v : Nat) : Nat → Nat × Bool
  | 0 => (0, false)
  | n + 1 =>
    let (rest, bad) := bcdValue (v / 16) n
    (v % 16 + 10 * rest, bad || decide (9 < v % 16))

/-- n decimal digits, four bits each. -/
def bcdDigits (v : Nat) : Nat → Nat
  | 0 => 0
  | n + 1 => v % 10 + 16 * bcdDigits (v / 10) n

end Sys2Proof.Machine
end

