-- ==== Sys2Proof/Machine/X87.lean ====
section
/-! DEFINITION. The x87 instructions (44_x87; 10_state R90 to R97). Choices where the rules leave a corner: log 16, 19, 23. -/
namespace Sys2Proof.Machine

/-! ## The register stack and the status word (10_state R90 to R94) -/

def Fpu.top (f : Fpu) : RegNum := f.sw.extractLsb' 11 3
def Fpu.setTop (f : Fpu) (t : RegNum) : Fpu := { f with sw := (f.sw &&& 0xC7FF) ||| t.setWidth 16 <<< 11 }
/-- The physical number of ST(i). -/
def Fpu.phys (f : Fpu) (i : RegNum) : RegNum := f.top + i
def Fpu.st (f : Fpu) (i : RegNum) : Word80 := f.regs.get (f.phys i)
/-- The tag of a physical register. -/
def Fpu.tag (f : Fpu) (n : RegNum) : BitVec 2 := f.tw.extractLsb' (2 * n.toNat) 2
def Fpu.setTag (f : Fpu) (n : RegNum) (t : BitVec 2) : Fpu :=
  { f with tw := (f.tw &&& ~~~(3#16 <<< (2 * n.toNat))) ||| t.setWidth 16 <<< (2 * n.toNat) }
def Fpu.empty (f : Fpu) (i : RegNum) : Bool := f.tag (f.phys i) == 3

/-- The tag of a value (R94). -/
def tagOf (v : Word80) : BitVec 2 :=
  match extCls v with
  | .zero => 1 | .normal => 0 | _ => 2

/-- A write of ST(i) recomputes its tag (44 R925). -/
def Fpu.setSt (f : Fpu) (i : RegNum) (v : Word80) : Fpu :=
  { f with regs := f.regs.set (f.phys i) v }.setTag (f.phys i) (tagOf v)

def Fpu.push (f : Fpu) (v : Word80) : Fpu := (f.setTop (f.top - 1)).setSt 0 v
def Fpu.pop (f : Fpu) : Fpu := (f.setTag f.top 3).setTop (f.top + 1)

def Fpu.setC0 (f : Fpu) (b : Bool) : Fpu := { f with sw := setBit f.sw 8 b }
def Fpu.setC1 (f : Fpu) (b : Bool) : Fpu := { f with sw := setBit f.sw 9 b }
def Fpu.setC2 (f : Fpu) (b : Bool) : Fpu := { f with sw := setBit f.sw 10 b }
def Fpu.setC3 (f : Fpu) (b : Bool) : Fpu := { f with sw := setBit f.sw 14 b }

/-- CW bits 5:0: the exception masks at the places of their flags (R92). -/
def Fpu.masks (f : Fpu) : Byte := f.cw.setWidth 8 &&& 0x3F
def Fpu.rc (f : Fpu) : BitVec 2 := f.cw.extractLsb' 10 2
/-- The significand bits PC selects (44 R922; log 19). -/
def Fpu.prec (f : Fpu) : Nat :=
  match (f.cw.extractLsb' 8 2).toNat with
  | 0 => 24
  | 1 => match Config.x87ReservedPrecision.val with | 0 => 24 | 1 => 53 | _ => 64
  | 2 => 53
  | _ => 64

/-- ES and B: an unmasked exception flag is set (R93). -/
def Fpu.summary (f : Fpu) : Fpu :=
  let es := f.sw &&& ~~~f.cw &&& 0x3F != 0
  { f with sw := setBit (setBit f.sw 7 es) 15 es }

/-- Set exception flags, SF among them. -/
def Fpu.raised (f : Fpu) (flags : Byte) : Fpu := { f with sw := f.sw ||| flags.setWidth 16 }.summary

/-! ## Results and exceptions (44 R922 to R925) -/

/-- An operand, whether it was denormal in its own format, and whether it is an empty register. -/
structure XArg where
  v : Word80
  den : Bool
  empty : Bool
  deriving DecidableEq, Repr

def Fpu.arg (f : Fpu) (i : RegNum) : XArg := { v := f.st i, den := extCls (f.st i) == .denormal, empty := f.empty i }
def argFp (g : Fmt) (v : Nat) : XArg := { v := extOfFp g v, den := fpCls g v == .denormal, empty := false }
def argInt (n : Int) : XArg := { v := extOfInt n, den := false, empty := false }

/-- A result; none when an unmasked exception prevents it. `up` is C1. -/
structure XRes (α : Type) where
  flags : Byte
  up : Bool
  val : Option α
  deriving DecidableEq, Repr

def xExact {α : Type} (v : α) : XRes α := { flags := 0, up := false, val := some v }

/-- An invalid operation whose masked response is v (44 R923). -/
def xInvalid {α : Type} (masks flags : Byte) (v : α) : XRes α :=
  { flags, up := false, val := if masks &&& xIE != 0 then some v else none }

def xBadFlags : Byte := xIE ||| xSF

/-- The NaN that an operation on NaNs gives (44 R924): the one with the larger significand, or the positive one, quieted. -/
def xNan (args : List XArg) : Word80 :=
  let isNan (a : XArg) : Bool := extCls a.v == .snan || extCls a.v == .qnan
  let pick (a b : Word80) : Word80 :=
    if extSig a < extSig b then b
    else if extSig a = extSig b ∧ extNeg a then b
    else a
  match args.filter isNan with
  | [] => extIndefinite
  | a :: rest => extQuiet (rest.foldl (fun x y => pick x y.v) a.v)

/-- The checks of 44 R923 in their order, then the result of the operation. `ofNan` makes a result of a NaN, `ofInf`
of the infinity of a masked zero divide. An unsupported operand beside a NaN, of which R924 does not speak, gives the
indefinite with #I (DESIGN CHOICE, log 16). -/
def xRun {α : Type} (masks : Byte) (args : List XArg) (ofNan : Word80 → α) (ofInf : Bool → α) (op : Op)
    (finish : Val → XRes α) : XRes α :=
  let has (c : Cls) : Bool := args.any (fun a => extCls a.v == c)
  let d := flagIf (args.any (·.den)) xDE
  let blocked := d &&& ~~~masks != 0
  if args.any (·.empty) then xInvalid masks xBadFlags (ofNan extIndefinite)
  else if has .unsupported then xInvalid masks xIE (ofNan extIndefinite)
  else if has .snan then xInvalid masks xIE (ofNan (xNan args))
  else if has .qnan then xExact (ofNan (xNan args))
  else match op with
    | .invalid => xInvalid masks xIE (ofNan extIndefinite)
    | .zeroDiv n =>
      if blocked then { flags := d, up := false, val := none }
      else { flags := d ||| xZE, up := false, val := if masks &&& xZE != 0 then some (ofInf n) else none }
    | .val v =>
      if blocked then { flags := d, up := false, val := none }
      else let r := finish v; { r with flags := d ||| r.flags }

/-- Round a value to p bits in the extended format (44 R922, R923). -/
def roundExt (rc : BitVec 2) (p : Nat) (masks : Byte) (v : Val) : XRes Word80 :=
  match v with
  | .zero n => xExact (extZero n)
  | .inf n => xExact (extInf n)
  | .fin x =>
    let o := Fmt.extended.round p rc masks 24576 x
    { flags := o.flags, up := o.up, val := some (extOf x.neg o.val) }

/-- An operation on two operands at the precision PC selects. -/
def Fpu.arith (f : Fpu) (op : BitVec 2 → Val → Val → Op) (a b : XArg) : XRes Word80 :=
  xRun f.masks [a, b] id extInf (op f.rc (extVal a.v) (extVal b.v)) (roundExt f.rc f.prec f.masks)

/-- Deliver a result: the destination if there is one, C1, the flags. An unmasked #IA, #D or #Z gives no result and clears
C1, of which 44 R923 says nothing (DESIGN CHOICE, log 16). -/
def Fpu.settle {α : Type} (f : Fpu) (r : XRes α) (place : Fpu → α → Fpu) : Fpu :=
  ((match r.val with | some v => place f v | none => f).setC1 r.up).raised r.flags

/-- A stack overflow (44 R925): `g` is the state if the push proceeds. -/
def Fpu.overflowed (f g : Fpu) : Fpu := ((if f.masks &&& xIE != 0 then g else f).setC1 true).raised xBadFlags

/-- Push a result, with the overflow check (44 R925). -/
def Fpu.pushRes (f : Fpu) (r : XRes Word80) : Fpu :=
  if r.flags &&& xSF == 0 && !f.empty 7 then f.overflowed (f.push extIndefinite) else f.settle r Fpu.push

/-- Replace ST(0) by the first result and push the second. An empty ST(0) below a full register is an underflow alone, with the
push, and a masked overflow beside an unmasked #D or #Z replaces and pushes nothing while IE, SF and C1 are set: 44 R923 and
R925 do not say (DESIGN CHOICE, log 16). -/
def Fpu.replacePush (f : Fpu) (r : XRes (Word80 × Word80)) : Fpu :=
  let place (f : Fpu) (v : Word80 × Word80) : Fpu := (f.setSt 0 v.1).push v.2
  if r.flags &&& xSF == 0 && !f.empty 7 then
    if f.masks &&& xIE == 0 then f.overflowed f
    else ((f.settle r fun f v => place f (v.1, extIndefinite)).setC1 true).raised xBadFlags
  else f.settle r place

/-! ## The frame of an x87 instruction (44 R920) -/

def getFpu : M Fpu := ask (·.fpu)
def fpuDo (f : Fpu → Fpu) : M Unit := update fun s => { s with fpu := f s.fpu }

/-- A pending unmasked exception is delivered (44 R920 step 2, 92 D25). -/
def xPending : M Unit := do
  let s ← ask id
  if s.fpu.sw.getLsbD 7 then
    if s.cr0.getLsbD 5 then raiseMF else refuse .externalX87Error

/-- Steps 1 and 2. -/
def xUse (waiting : Bool) : M Unit := do
  let s ← ask id
  if s.cr0.getLsbD 2 || s.cr0.getLsbD 3 then raiseNM
  if waiting then xPending

/-- Step 4: FIP and FOP. -/
def xNote (op rm : Byte) : M Unit :=
  update fun s => { s with fpu := { s.fpu with
    fipSel := s.cs.sel, fip := s.eip, fop := op.extractLsb' 0 3 ++ rm } }

/-- Step 4 with a memory operand: FDP too. -/
def xNoteMem (op : Byte) (g : RegNum) (m : MemRef) : M Unit := do
  xNote op ((encMem g m).headD 0)
  update fun s => { s with fpu := { s.fpu with fdpSel := (s.seg (s.memSeg m)).sel, fdp := s.ea m } }

/-- Steps 1 to 4 of an instruction without a memory operand. -/
def xReg (op rm : Byte) : M Unit := do
  xUse true
  xNote op rm

/-- Steps 1 to 4 of an instruction that reads memory, and the operand. -/
def xLoad (w : Nat) (op : Byte) (g : RegNum) (m : MemRef) : M (BitVec w) := do
  xUse true
  let addrs ← memAddrs m (w / 8) false
  xNoteMem op g m
  readAt w addrs

/-- Steps 1 to 4 of an instruction that may write n bytes of memory. -/
def xDest (n : Nat) (op : Byte) (g : RegNum) (m : MemRef) : M Unit := do
  xUse true
  probe (memAddrs m n true)
  xNoteMem op g m

/-- C0, C2 and C3 are undefined (44 R922; 93 U35). -/
def drawCodes : M Unit := do
  let c ← free 3
  fpuDo fun f => ((f.setC0 (c.getLsbD 0)).setC2 (c.getLsbD 1)).setC3 (c.getLsbD 2)

/-- An arithmetic instruction's effect: C0, C2 and C3 undefined, then the operation. -/
def xCalc (f : Fpu → Fpu) : M Unit := do
  drawCodes
  fpuDo f

/-! ## Data transfer (R930 to R940) -/

/-- A load from a memory real (R930). -/
def Fpu.loaded (f : Fpu) (a : XArg) : XRes Word80 :=
  xRun f.masks [a] id extInf (.val (extVal a.v)) (fun _ => xExact a.v)

/-- R930. -/
def execFld (f : FReal80) (s : State) : Host.Outcome State Fault Refusal :=
  runPlain false
    (match f with
     | .m32 m => do let v ← xLoad 32 0xD9 0 m; fpuDo fun f => f.pushRes (f.loaded (argFp .single v.toNat))
     | .m64 m => do let v ← xLoad 64 0xDD 0 m; fpuDo fun f => f.pushRes (f.loaded (argFp .double v.toNat))
     | .m80 m => do let v ← xLoad 80 0xDB 5 m; fpuDo fun f => f.pushRes (xExact v)
     | .st i => do
       xReg 0xD9 (modrm 3 0 i)
       fpuDo fun f => f.pushRes (if f.empty i then xInvalid f.masks xBadFlags extIndefinite else xExact (f.st i))) s

/-- A NaN in a smaller format: quieted, its fraction truncated (R931). -/
def fpOfExtNan (g : Fmt) (v : Word80) : Nat :=
  fpQuiet g (fpOf g (extNeg v) { exp := g.special, sig := (extSig v).toNat / 2 ^ (64 - g.p) })

/-- ST(0) in a memory real format (R931): an unmasked overflow or underflow stores nothing, and C1, which R931 gives as the
rounding direction or 0, is then 0. A denormal ST(0) raises no #D, which R931 does not list (DESIGN CHOICE, log 16). -/
def Fpu.toReal (f : Fpu) (g : Fmt) : XRes Nat :=
  let v := f.st 0
  let bad (flags : Byte) := xInvalid f.masks flags (fpIndefinite g)
  if f.empty 0 then bad xBadFlags
  else match extCls v with
    | .unsupported => bad xIE
    | .snan => xInvalid f.masks xIE (fpOfExtNan g v)
    | .qnan => xExact (fpOfExtNan g v)
    | .zero => xExact (fpZero g (extNeg v))
    | .inf => xExact (fpInf g (extNeg v))
    | _ =>
      let o := g.round g.p f.rc f.masks 0 (extExact v)
      if o.flags &&& (xOE ||| xUE) &&& ~~~f.masks != 0 then { flags := o.flags, up := false, val := none }
      else { flags := o.flags, up := o.up, val := some (fpOf g (extNeg v) o.val) }

/-- Store a result of ST(0) in n bytes, then pop if the store happened and the instruction pops. -/
def xStore (n : Nat) (m : MemRef) (r : XRes Nat) (pops : Bool) : M Unit := do
  match r.val with
  | some v => writeAt v (← memAddrs m n true)
  | none => pure ()
  fpuDo fun f => f.settle r fun f _ => if pops then f.pop else f

def xStoreReal (g : Fmt) (n : Nat) (op : Byte) (k : RegNum) (m : MemRef) (pops : Bool) : M Unit := do
  xDest n op k m
  xStore n m ((← getFpu).toReal g) pops

/-- FST ST(i): a bit copy, the tag copied (R931). -/
def Fpu.copyTo (f : Fpu) (i : RegNum) (pops : Bool) : Fpu :=
  let done (f : Fpu) : Fpu := if pops then f.pop else f
  if f.empty 0 then
    f.settle (xInvalid f.masks xBadFlags extIndefinite) fun f v => done (f.setSt i v)
  else
    done ((f.setSt i (f.st 0)).setTag (f.phys i) (f.tag f.top)) |>.setC1 false

/-- R931. -/
def execFst (f : FReal) (s : State) : Host.Outcome State Fault Refusal :=
  runPlain false
    (match f with
     | .m32 m => xStoreReal .single 4 0xD9 2 m false
     | .m64 m => xStoreReal .double 8 0xDD 2 m false
     | .st i => do xReg 0xDD (modrm 3 2 i); fpuDo (·.copyTo i false)) s

/-- R932. -/
def execFstp (f : FReal80) (s : State) : Host.Outcome State Fault Refusal :=
  runPlain false
    (match f with
     | .m32 m => xStoreReal .single 4 0xD9 3 m true
     | .m64 m => xStoreReal .double 8 0xDD 3 m true
     | .m80 m => do
       xDest 10 0xDB 7 m
       let f ← getFpu
       xStore 10 m
         (if f.empty 0 then xInvalid f.masks xBadFlags extIndefinite.toNat else xExact (f.st 0).toNat) true
     | .st i => do xReg 0xDD (modrm 3 3 i); fpuDo (·.copyTo i true)) s

/-- R933. -/
def execFild (f : FInt64) (s : State) : Host.Outcome State Fault Refusal :=
  let pushInt (n : Int) : M Unit := fpuDo fun f => f.pushRes (xExact (extOfInt n))
  runPlain false
    (match f with
     | .m16 m => do pushInt (← xLoad 16 0xDF 0 m).toInt
     | .m32 m => do pushInt (← xLoad 32 0xDB 0 m).toInt
     | .m64 m => do pushInt (← xLoad 64 0xDF 5 m).toInt) s

/-- ST(0) rounded to an integer; n outside the range, NaNs, infinities and empty registers are invalid (R934, R938). A
denormal raises no #D: R934 says so of FIST, for FBSTP it is the model's choice (DESIGN CHOICE, log 16). -/
def Fpu.toInteger (f : Fpu) (rc : BitVec 2) (fits : Int → Bool) (enc : Bool → Int → Nat) (indefinite : Nat) : XRes Nat :=
  let v := f.st 0
  if f.empty 0 then xInvalid f.masks xBadFlags indefinite
  else match extVal v with
    | .zero n => xExact (enc n 0)
    | .inf _ => xInvalid f.masks xIE indefinite
    | .fin x =>
      let (n, inexact, up) := x.toInteger rc
      if extCls v == .unsupported || extCls v == .snan || extCls v == .qnan || !fits n then
        xInvalid f.masks xIE indefinite
      else { flags := flagIf inexact xPE, up, val := some (enc x.neg n) }

/-- R934. -/
def Fpu.toInt (f : Fpu) (rc : BitVec 2) (w : Nat) : XRes Nat :=
  f.toInteger rc (fun n => decide (-(2 ^ (w - 1) : Int) ≤ n ∧ n < (2 ^ (w - 1) : Int)))
    (fun _ n => (BitVec.ofInt w n).toNat) (2 ^ (w - 1))

def xStoreInt (w : Nat) (op : Byte) (k : RegNum) (m : MemRef) (pops : Bool) : M Unit := do
  xDest (w / 8) op k m
  let f ← getFpu
  xStore (w / 8) m (f.toInt f.rc w) pops

/-- R934. -/
def execFist (f : FInt) (s : State) : Host.Outcome State Fault Refusal :=
  runPlain false
    (match f with
     | .m16 m => xStoreInt 16 0xDF 2 m false
     | .m32 m => xStoreInt 32 0xDB 2 m false) s

/-- R935. -/
def execFistp (f : FInt64) (s : State) : Host.Outcome State Fault Refusal :=
  runPlain false
    (match f with
     | .m16 m => xStoreInt 16 0xDF 3 m true
     | .m32 m => xStoreInt 32 0xDB 3 m true
     | .m64 m => xStoreInt 64 0xDF 7 m true) s

/-- A truncating store; C1 is cleared (R936). -/
def xStoreTrunc (w : Nat) (op : Byte) (k : RegNum) (m : MemRef) : M Unit := do
  if !Config.hasSse3 then raiseUD
  xDest (w / 8) op k m
  xStore (w / 8) m { (← getFpu).toInt 3 w with up := false } true

/-- R936. -/
def execFisttp (f : FInt64) (s : State) : Host.Outcome State Fault Refusal :=
  runPlain false
    (match f with
     | .m16 m => xStoreTrunc 16 0xDF 1 m
     | .m32 m => xStoreTrunc 32 0xDB 1 m
     | .m64 m => xStoreTrunc 64 0xDD 1 m) s

/-- R937: a digit above 9 gives an undefined value (93 U33). -/
def execFbld (m : MemRef) (s : State) : Host.Outcome State Fault Refusal :=
  runPlain false (do
    let v ← xLoad 80 0xDF 4 m
    let (n, bad) := bcdValue (v.toNat % 2 ^ 72) 18
    let w : Word80 ← if bad then free 80 else pure (setBit (extOfInt n) 79 (v.getLsbD 79))
    fpuDo fun f => f.pushRes (xExact w)) s

/-- R938, which does not say whether a denormal ST(0) raises #D: it raises none (DESIGN CHOICE, log 16). -/
def Fpu.toBcd (f : Fpu) : XRes Nat :=
  f.toInteger f.rc (fun n => decide (n.natAbs < 10 ^ 18))
    (fun neg n => bcdDigits n.natAbs 18 + (if neg then 2 ^ 79 else 0)) 0xFFFFC000000000000000

/-- R938. -/
def execFbstp (m : MemRef) (s : State) : Host.Outcome State Fault Refusal :=
  runPlain false (do
    xDest 10 0xDF 6 m
    xStore 10 m (← getFpu).toBcd true) s

/-- R939: contents and tags; an empty register first becomes the indefinite when masked. -/
def Fpu.exchanged (f : Fpu) (i : RegNum) : Fpu :=
  let swap (f : Fpu) : Fpu :=
    let (a, b) := (f.phys 0, f.phys i)
    let (ta, tb) := (f.tag a, f.tag b)
    ({ f with regs := (f.regs.set a (f.regs.get b)).set b (f.regs.get a) }.setTag a tb).setTag b ta
  let filled (f : Fpu) (i : RegNum) : Fpu := if f.empty i then f.setSt i extIndefinite else f
  if f.empty 0 || f.empty i then
    f.settle (xInvalid f.masks xBadFlags extIndefinite) fun f _ => swap (filled (filled f 0) i)
  else (swap f).setC1 false

/-- R939. -/
def execFxch (i : RegNum) (s : State) : Host.Outcome State Fault Refusal :=
  runPlain false (do xReg 0xD9 (modrm 3 1 i); fpuDo (·.exchanged i)) s

/-- A conditional move (R940): C1 is undefined unless a source is empty. -/
def xCmov (op : Byte) (k i : RegNum) (cond : State → Bool) : M Unit := do
  xReg op (modrm 3 k i)
  let s ← ask id
  let c1 ← freeBit
  fpuDo fun f =>
    if f.empty 0 || f.empty i then f.settle (xInvalid f.masks xBadFlags extIndefinite) fun f v => f.setSt 0 v
    else (if cond s then f.setSt 0 (f.st i) else f).setC1 c1

/-- R940. -/
def execFcmovb (i : RegNum) (s : State) : Host.Outcome State Fault Refusal :=
  runPlain false (xCmov 0xDA 0 i fun s => s.flag fCF) s
/-- R940. -/
def execFcmove (i : RegNum) (s : State) : Host.Outcome State Fault Refusal :=
  runPlain false (xCmov 0xDA 1 i fun s => s.flag fZF) s
/-- R940. -/
def execFcmovbe (i : RegNum) (s : State) : Host.Outcome State Fault Refusal :=
  runPlain false (xCmov 0xDA 2 i fun s => s.flag fCF || s.flag fZF) s
/-- R940. -/
def execFcmovu (i : RegNum) (s : State) : Host.Outcome State Fault Refusal :=
  runPlain false (xCmov 0xDA 3 i fun s => s.flag fPF) s
/-- R940. -/
def execFcmovnb (i : RegNum) (s : State) : Host.Outcome State Fault Refusal :=
  runPlain false (xCmov 0xDB 0 i fun s => !s.flag fCF) s
/-- R940. -/
def execFcmovne (i : RegNum) (s : State) : Host.Outcome State Fault Refusal :=
  runPlain false (xCmov 0xDB 1 i fun s => !s.flag fZF) s
/-- R940. -/
def execFcmovnbe (i : RegNum) (s : State) : Host.Outcome State Fault Refusal :=
  runPlain false (xCmov 0xDB 2 i fun s => !(s.flag fCF || s.flag fZF)) s
/-- R940. -/
def execFcmovnu (i : RegNum) (s : State) : Host.Outcome State Fault Refusal :=
  runPlain false (xCmov 0xDB 3 i fun s => !s.flag fPF) s

/-! ## Constants (R945 to R951), rounded by RC from their exact values (R927) -/

/-- An irrational positive constant from its leading bits. -/
def irrational (mant : Nat) (exp : Int) : Exact := { neg := false, mant, exp, sticky := true }

def xPi : Exact := irrational 0xC90FDAA22168C234C4C6628B80DC1CD1 (-126)
def xLog2Ten : Exact := irrational 0xD49A784BCD1B8AFE492BF6FF4DAFDB4C (-126)
def xLog2E : Exact := irrational 0xB8AA3B295C17F0BBBE87FED0691D3E88 (-127)
def xLogTen2 : Exact := irrational 0x9A209A84FBCFF7988F8959AC0B7C9178 (-129)
def xLnTwo : Exact := irrational 0xB17217F7D1CF79ABC9E3B39803F2F6AF (-128)

/-- Push a constant. R945 says of FLD1 that C1 is cleared and only the stack can overflow; that the same holds of the rounded
constants (R946 to R950: no precision exception, C1 cleared) is a DESIGN CHOICE (log 16). -/
def xConst (rm : Byte) (v : Val) : M Unit := do
  xReg 0xD9 rm
  fpuDo fun f => f.pushRes { roundExt f.rc 64 f.masks v with flags := 0, up := false }

/-- R945. -/
def execFld1 (s : State) : Host.Outcome State Fault Refusal := runPlain false (xConst 0xE8 (exactOfInt 1)) s
/-- R946. -/
def execFldl2t (s : State) : Host.Outcome State Fault Refusal := runPlain false (xConst 0xE9 (.fin xLog2Ten)) s
/-- R947. -/
def execFldl2e (s : State) : Host.Outcome State Fault Refusal := runPlain false (xConst 0xEA (.fin xLog2E)) s
/-- R948. -/
def execFldpi (s : State) : Host.Outcome State Fault Refusal := runPlain false (xConst 0xEB (.fin xPi)) s
/-- R949. -/
def execFldlg2 (s : State) : Host.Outcome State Fault Refusal := runPlain false (xConst 0xEC (.fin xLogTen2)) s
/-- R950. -/
def execFldln2 (s : State) : Host.Outcome State Fault Refusal := runPlain false (xConst 0xED (.fin xLnTwo)) s
/-- R951. -/
def execFldz (s : State) : Host.Outcome State Fault Refusal := runPlain false (xConst 0xEE (.zero false)) s

/-! ## Arithmetic (R954 to R980) -/

/-- An operation as the rules name it: destination, then source. -/
abbrev XOp := BitVec 2 → Val → Val → Op

def xAdd : XOp := opAdd
def xSub : XOp := opSub
def xSubr : XOp := fun rc a b => opSub rc b a
def xMul : XOp := fun _ a b => opMul a b
def xDiv : XOp := fun _ a b => opDiv a b
def xDivr : XOp := fun _ a b => opDiv b a

/-- ST(i) := ST(i) op ST(0). -/
def Fpu.arithTo (f : Fpu) (op : XOp) (i : RegNum) (pops : Bool) : Fpu :=
  f.settle (f.arith op (f.arg i) (f.arg 0)) fun f v => if pops then (f.setSt i v).pop else f.setSt i v

/-- ST(0) := ST(0) op a. -/
def Fpu.arithTop (f : Fpu) (op : XOp) (a : XArg) : Fpu :=
  f.settle (f.arith op (f.arg 0) a) fun f v => f.setSt 0 v

/-- The rows of a basic operation (R954): k is the field of the memory and D8 rows, kd of the DC row. -/
def xArith (k kd : RegNum) (op : XOp) (f : FArith) : M Unit :=
  match f with
  | .m32 m => do let v ← xLoad 32 0xD8 k m; xCalc (·.arithTop op (argFp .single v.toNat))
  | .m64 m => do let v ← xLoad 64 0xDC k m; xCalc (·.arithTop op (argFp .double v.toNat))
  | .st0 i => do xReg 0xD8 (modrm 3 k i); xCalc fun f => f.arithTop op (f.arg i)
  | .sti i => do xReg 0xDC (modrm 3 kd i); xCalc (·.arithTo op i false)

/-- The popping row. -/
def xArithPop (kd : RegNum) (op : XOp) (i : RegNum) : M Unit := do
  xReg 0xDE (modrm 3 kd i)
  xCalc (·.arithTo op i true)

/-- The integer rows (R957). -/
def xArithInt (k : RegNum) (op : XOp) (f : FInt) : M Unit :=
  match f with
  | .m16 m => do let v ← xLoad 16 0xDE k m; xCalc (·.arithTop op (argInt v.toInt))
  | .m32 m => do let v ← xLoad 32 0xDA k m; xCalc (·.arithTop op (argInt v.toInt))

/-- R955. -/
def execFadd (f : FArith) (s : State) : Host.Outcome State Fault Refusal := runPlain false (xArith 0 0 xAdd f) s
/-- R956. -/
def execFaddp (i : RegNum) (s : State) : Host.Outcome State Fault Refusal := runPlain false (xArithPop 0 xAdd i) s
/-- R957. -/
def execFiadd (f : FInt) (s : State) : Host.Outcome State Fault Refusal := runPlain false (xArithInt 0 xAdd f) s
/-- R958. -/
def execFsub (f : FArith) (s : State) : Host.Outcome State Fault Refusal := runPlain false (xArith 4 5 xSub f) s
/-- R959. -/
def execFsubp (i : RegNum) (s : State) : Host.Outcome State Fault Refusal := runPlain false (xArithPop 5 xSub i) s
/-- R960. -/
def execFisub (f : FInt) (s : State) : Host.Outcome State Fault Refusal := runPlain false (xArithInt 4 xSub f) s
/-- R961. -/
def execFsubr (f : FArith) (s : State) : Host.Outcome State Fault Refusal := runPlain false (xArith 5 4 xSubr f) s
/-- R962. -/
def execFsubrp (i : RegNum) (s : State) : Host.Outcome State Fault Refusal := runPlain false (xArithPop 4 xSubr i) s
/-- R963. -/
def execFisubr (f : FInt) (s : State) : Host.Outcome State Fault Refusal := runPlain false (xArithInt 5 xSubr f) s
/-- R964. -/
def execFmul (f : FArith) (s : State) : Host.Outcome State Fault Refusal := runPlain false (xArith 1 1 xMul f) s
/-- R965. -/
def execFmulp (i : RegNum) (s : State) : Host.Outcome State Fault Refusal := runPlain false (xArithPop 1 xMul i) s
/-- R966. -/
def execFimul (f : FInt) (s : State) : Host.Outcome State Fault Refusal := runPlain false (xArithInt 1 xMul f) s
/-- R967. -/
def execFdiv (f : FArith) (s : State) : Host.Outcome State Fault Refusal := runPlain false (xArith 6 7 xDiv f) s
/-- R968. -/
def execFdivp (i : RegNum) (s : State) : Host.Outcome State Fault Refusal := runPlain false (xArithPop 7 xDiv i) s
/-- R969. -/
def execFidiv (f : FInt) (s : State) : Host.Outcome State Fault Refusal := runPlain false (xArithInt 6 xDiv f) s
/-- R970. -/
def execFdivr (f : FArith) (s : State) : Host.Outcome State Fault Refusal := runPlain false (xArith 7 6 xDivr f) s
/-- R971. -/
def execFdivrp (i : RegNum) (s : State) : Host.Outcome State Fault Refusal := runPlain false (xArithPop 6 xDivr i) s
/-- R972. -/
def execFidivr (f : FInt) (s : State) : Host.Outcome State Fault Refusal := runPlain false (xArithInt 7 xDivr f) s

/-- Quotient rounded to an integer: toward zero, or to nearest even. -/
def quotient (nearest : Bool) (a b : Nat) : Nat :=
  let q := a / b
  let r := a % b
  if nearest && (decide (b < 2 * r) || (2 * r == b && q % 2 == 1)) then q + 1 else q

/-- A partial remainder: the result, and C0, C3 and C1 from the quotient when the reduction is complete. -/
structure Prem where
  v : Val
  q : Option Nat
  deriving DecidableEq, Repr

/-- x - y q 2^k, with q the magnitude of the quotient of x by y 2^k: k = 0 when complete (R973). That the bits Q[2:0] of a
negative quotient are those of its magnitude is a DESIGN CHOICE (log 16). -/
def premOf (nearest : Bool) (x y : Exact) (k : Nat) : Nat × Val :=
  let e := min x.exp (y.exp + (k : Int))
  let a := x.mant * 2 ^ (x.exp - e).toNat
  let b := y.mant * 2 ^ (y.exp + (k : Int) - e).toNat
  let q := quotient nearest a b
  let r : Int := (a : Int) - (b : Int) * (q : Int)
  (q, if r = 0 then .zero x.neg else .fin { neg := x.neg != decide (r < 0), mant := r.natAbs, exp := e })

/-- R973, R974. The exponent of a denormal operand is that of its leading bit, where R973 does not say whether D takes the
field (DESIGN CHOICE, log 16). -/
def prem (nearest : Bool) (a b : Val) : Prem :=
  match a, b with
  | .fin x, .fin y =>
    let d := x.top - y.top
    if d < 64 then let (q, v) := premOf nearest x y 0; { v, q := some q }
    else { v := (premOf false x y (d - (32 + Config.x87PremStepLess32.toNat : Nat)).toNat).2, q := none }
  | _, _ => { v := a, q := some 0 }

/-- Remainder operands the operation is invalid on. -/
def premOp (a b : Val) : Op :=
  match a, b with
  | .inf _, _ => .invalid
  | _, .zero _ => .invalid
  | _, _ => .val a

/-- An infinite divisor leaves ST(0) as it is (R973). C1 is `c1` after a partial reduction (log 16). -/
def Fpu.prem (f : Fpu) (nearest c1 : Bool) : Fpu :=
  let (a, b) := (f.arg 0, f.arg 1)
  let p := Machine.prem nearest (extVal a.v) (extVal b.v)
  let kept := extCls b.v == .inf
  let r := xRun f.masks [a, b] (fun v => (v, false)) (fun n => (extInf n, false)) (premOp (extVal a.v) (extVal b.v))
    (fun _ =>
      let r := if kept then xExact a.v else roundExt f.rc 64 f.masks p.v
      { flags := r.flags, up := r.up, val := r.val.map (·, true) })
  let g := f.settle r fun f v => if v.2 && kept then f else f.setSt 0 v.1
  match r.val, p.q with
  | some (_, true), some q =>
    (((g.setC2 false).setC0 (q.testBit 2)).setC3 (q.testBit 1)).setC1 (q.testBit 0)
  | some (_, true), none => (g.setC2 true).setC1 c1
  | _, _ => g

def xPrem (rm : Byte) (nearest : Bool) : M Unit := do
  xReg 0xD9 rm
  let c1 ← freeBit
  xCalc (·.prem nearest c1)

/-- R973. -/
def execFprem (s : State) : Host.Outcome State Fault Refusal := runPlain false (xPrem 0xF8 false) s
/-- R974. -/
def execFprem1 (s : State) : Host.Outcome State Fault Refusal := runPlain false (xPrem 0xF5 true) s

/-- An operation on the bits of ST(0) that only a stack underflow stops. -/
def Fpu.bitOp (f : Fpu) (op : Word80 → Word80) : Fpu :=
  f.settle (if f.empty 0 then xInvalid f.masks xBadFlags extIndefinite else xExact (op (f.st 0))) fun f v => f.setSt 0 v

/-- R975. -/
def execFabs (s : State) : Host.Outcome State Fault Refusal :=
  runPlain false (do xReg 0xD9 0xE1; xCalc (·.bitOp (setBit · 79 false))) s
/-- R976. -/
def execFchs (s : State) : Host.Outcome State Fault Refusal :=
  runPlain false (do xReg 0xD9 0xE0; xCalc (·.bitOp fun v => setBit v 79 !(extNeg v))) s

/-- An operation on ST(0) alone, into ST(0). -/
def Fpu.unary (f : Fpu) (op : Val → Op) (finish : Val → XRes Word80) : Fpu :=
  f.settle (xRun f.masks [f.arg 0] id extInf (op (extVal (f.st 0))) finish) fun f v => f.setSt 0 v

/-- Round to an integral value, the sign kept (R977). -/
def xIntegral (rc : BitVec 2) (v : Val) : XRes Word80 :=
  match v with
  | .fin x =>
    if 0 ≤ x.exp then roundExt rc 64 0x3F v
    else
      let (n, inexact, up) := x.toInteger rc
      { flags := flagIf inexact xPE, up, val := some (setBit (extOfInt n) 79 x.neg) }
  | _ => roundExt rc 64 0x3F v

/-- R977. -/
def execFrndint (s : State) : Host.Outcome State Fault Refusal :=
  runPlain false (do xReg 0xD9 0xFC; xCalc fun f => f.unary .val (xIntegral f.rc)) s

/-- ST(0) * 2^trunc(ST(1)) (R978); an exponent beyond every result is cut to one that is also beyond. -/
def opScale (a b : Val) : Op :=
  match a, b with
  | .zero _, .inf n => if n then .val a else .invalid
  | .inf _, .inf n => if n then .invalid else .val a
  | .fin x, .inf n => .val (if n then .zero x.neg else .inf x.neg)
  | .fin x, .fin y =>
    let n : Int := if y.top < 17 then (y.toInteger 3).1 else if y.neg then -131072 else 131072
    .val (.fin { x with exp := x.exp + n })
  | _, _ => .val a

/-- An unmasked overflow or underflow so large that the moved exponent does not fit either: the result is a free value. -/
def scaleTooFar (masks : Byte) (v : Val) : Bool :=
  match v with
  | .fin x =>
    (masks &&& xOE == 0 && decide (16383 + 24576 < x.top)) || (masks &&& xUE == 0 && decide (x.top < -16382 - 24576))
  | _ => false

/-- R978. -/
def execFscale (s : State) : Host.Outcome State Fault Refusal :=
  runPlain false (do
    xReg 0xD9 0xFD
    let wild ← free 80
    xCalc fun f =>
      let (a, b) := (f.arg 0, f.arg 1)
      f.settle
        (xRun f.masks [a, b] id extInf (opScale (extVal a.v) (extVal b.v)) fun v =>
          let r := roundExt f.rc 64 f.masks v
          if scaleTooFar f.masks v then { r with val := some wild } else r)
        fun f v => f.setSt 0 v) s

/-- R979. -/
def execFsqrt (s : State) : Host.Outcome State Fault Refusal :=
  runPlain false (do xReg 0xD9 0xFA; xCalc fun f => f.unary opSqrt (roundExt f.rc f.prec f.masks)) s

/-- R980: a zero divides by zero. -/
def xtractOp (v : Val) : Op :=
  match v with
  | .zero _ => .zeroDiv true
  | _ => .val v

/-- Both results of a NaN operand are the NaN (log 16). -/
def both (v : Word80) : Word80 × Word80 := (v, v)

/-- The significand with its leading bit at bit 63. -/
def xNormal (x : Exact) : Exact := { x with mant := x.mant * 2 ^ (63 - Nat.log2 x.mant), exp := x.exp - (63 - Nat.log2 x.mant : Nat) }

/-- R980. -/
def Fpu.xtract (f : Fpu) : Fpu :=
  let a := f.arg 0
  let v := match extVal a.v with | .fin x => Val.fin (xNormal x) | v => v
  f.replacePush (xRun f.masks [a] both (fun n => (extInf n, a.v)) (xtractOp v) fun v =>
    xExact (match v with
      | .fin x => (extOfInt x.top, extOf x.neg { exp := 0x3FFF, sig := x.mant })
      | .inf n => (extInf false, extInf n)
      | .zero n => (extInf true, extZero n)))

/-- R980. -/
def execFxtract (s : State) : Host.Outcome State Fault Refusal :=
  runPlain false (do xReg 0xD9 0xF4; xCalc (·.xtract)) s

/-! ## Comparison and classification (R985 to R998) -/

/-- C3, C2 and C0 of an order (R926). -/
structure Codes where
  c3 : Bool
  c2 : Bool
  c0 : Bool
  deriving DecidableEq, Repr

def Codes.unordered : Codes := { c3 := true, c2 := true, c0 := true }

def codesOf (o : Ordering) : Codes :=
  { c3 := o == .eq, c2 := false, c0 := o == .lt }

/-- The codes a comparison gives, if it gives any, its flags, and whether it completes with its pops (R926). -/
structure Compared where
  codes : Option Codes
  flags : Byte
  done : Bool
  deriving DecidableEq, Repr

/-- A comparison of two operands (R926). An unmasked underflow leaves the codes, and the flags of the EFLAGS forms, as they
were, by R925 and not by R926's words on #I; an unmasked #D leaves them too, of which R923 and R926 do not say (DESIGN
CHOICE, log 16). -/
def Fpu.compared (f : Fpu) (ordered : Bool) (a b : XArg) : Compared :=
  let has (c : Cls) : Bool := extCls a.v == c || extCls b.v == c
  let im := f.masks &&& xIE != 0
  let d := flagIf (a.den || b.den) xDE
  if a.empty || b.empty then
    { codes := if im then some .unordered else none, flags := xBadFlags, done := im }
  else if has .unsupported || has .snan || (ordered && has .qnan) then
    { codes := some .unordered, flags := xIE, done := im }
  else if has .qnan then { codes := some .unordered, flags := 0, done := true }
  else if d &&& ~~~f.masks != 0 then { codes := none, flags := d, done := false }
  else { codes := some (codesOf (valCmp (extVal a.v) (extVal b.v))), flags := d, done := true }

/-- n pops. -/
def Fpu.pops (f : Fpu) : Nat → Fpu
  | 0 => f
  | n + 1 => f.pop.pops n

/-- A comparison into C3, C2, C0. -/
def Fpu.compareTo (f : Fpu) (c : Compared) (n : Nat) : Fpu :=
  let g := match c.codes with
    | some k => ((f.setC3 k.c3).setC2 k.c2).setC0 k.c0
    | none => f
  ((if c.done then g.pops n else g).setC1 false).raised c.flags

/-- Compare ST(0) with an operand. -/
def Fpu.compareArg (f : Fpu) (ordered : Bool) (n : Nat) (b : XArg) : Fpu :=
  f.compareTo (f.compared ordered (f.arg 0) b) n

def xComReal (k : RegNum) (n : Nat) (f : FReal) : M Unit :=
  match f with
  | .m32 m => do let v ← xLoad 32 0xD8 k m; fpuDo (·.compareArg true n (argFp .single v.toNat))
  | .m64 m => do let v ← xLoad 64 0xDC k m; fpuDo (·.compareArg true n (argFp .double v.toNat))
  | .st i => do xReg 0xD8 (modrm 3 k i); fpuDo fun f => f.compareArg true n (f.arg i)

def xComInt (k : RegNum) (n : Nat) (f : FInt) : M Unit :=
  match f with
  | .m16 m => do let v ← xLoad 16 0xDE k m; fpuDo (·.compareArg true n (argInt v.toInt))
  | .m32 m => do let v ← xLoad 32 0xDA k m; fpuDo (·.compareArg true n (argInt v.toInt))

def xComReg (op rm : Byte) (ordered : Bool) (n : Nat) (i : RegNum) : M Unit := do
  xReg op rm
  fpuDo fun f => f.compareArg ordered n (f.arg i)

/-- A comparison into EFLAGS (R926). -/
def xComi (op : Byte) (k i : RegNum) (ordered : Bool) (n : Nat) : M Unit := do
  xReg op (modrm 3 k i)
  let f ← getFpu
  let c := f.compared ordered (f.arg 0) (f.arg i)
  match c.codes with
  | some k => update (·.compareFlags k.c3 k.c2 k.c0)
  | none => pure ()
  fpuDo fun f => f.compareTo { c with codes := none } n

/-- R985. -/
def execFcom (f : FReal) (s : State) : Host.Outcome State Fault Refusal := runPlain false (xComReal 2 0 f) s
/-- R986. -/
def execFcomp (f : FReal) (s : State) : Host.Outcome State Fault Refusal := runPlain false (xComReal 3 1 f) s
/-- R987. -/
def execFcompp (s : State) : Host.Outcome State Fault Refusal := runPlain false (xComReg 0xDE 0xD9 true 2 1) s
/-- R988. -/
def execFucom (i : RegNum) (s : State) : Host.Outcome State Fault Refusal :=
  runPlain false (xComReg 0xDD (modrm 3 4 i) false 0 i) s
/-- R989. -/
def execFucomp (i : RegNum) (s : State) : Host.Outcome State Fault Refusal :=
  runPlain false (xComReg 0xDD (modrm 3 5 i) false 1 i) s
/-- R990. -/
def execFucompp (s : State) : Host.Outcome State Fault Refusal := runPlain false (xComReg 0xDA 0xE9 false 2 1) s
/-- R991. -/
def execFicom (f : FInt) (s : State) : Host.Outcome State Fault Refusal := runPlain false (xComInt 2 0 f) s
/-- R992. -/
def execFicomp (f : FInt) (s : State) : Host.Outcome State Fault Refusal := runPlain false (xComInt 3 1 f) s
/-- R993. -/
def execFcomi (i : RegNum) (s : State) : Host.Outcome State Fault Refusal := runPlain false (xComi 0xDB 6 i true 0) s
/-- R994. -/
def execFcomip (i : RegNum) (s : State) : Host.Outcome State Fault Refusal := runPlain false (xComi 0xDF 6 i true 1) s
/-- R995. -/
def execFucomi (i : RegNum) (s : State) : Host.Outcome State Fault Refusal := runPlain false (xComi 0xDB 5 i false 0) s
/-- R996. -/
def execFucomip (i : RegNum) (s : State) : Host.Outcome State Fault Refusal := runPlain false (xComi 0xDF 5 i false 1) s
/-- R997. -/
def execFtst (s : State) : Host.Outcome State Fault Refusal :=
  runPlain false (do xReg 0xD9 0xE4; fpuDo (·.compareArg true 0 (argInt 0))) s

/-- The class codes of FXAM (R998). A pseudo-denormal, which has no row there, gets those of a denormal (DESIGN CHOICE,
log 16). -/
def examCodes (empty : Bool) (v : Word80) : Codes :=
  if empty then { c3 := true, c2 := false, c0 := true }
  else match extCls v with
    | .unsupported => { c3 := false, c2 := false, c0 := false }
    | .snan => { c3 := false, c2 := false, c0 := true }
    | .qnan => { c3 := false, c2 := false, c0 := true }
    | .normal => { c3 := false, c2 := true, c0 := false }
    | .inf => { c3 := false, c2 := true, c0 := true }
    | .zero => { c3 := true, c2 := false, c0 := false }
    | .denormal => { c3 := true, c2 := true, c0 := false }

/-- R998. -/
def execFxam (s : State) : Host.Outcome State Fault Refusal :=
  runPlain false (do
    xReg 0xD9 0xE5
    fpuDo fun f =>
      let k := examCodes (f.empty 0) (f.st 0)
      (((f.setC3 k.c3).setC2 k.c2).setC0 k.c0).setC1 (extNeg (f.st 0))) s

/-! ## Transcendental functions (R1005 to R1012; 92 D12; log 16) -/

/-- What one use of an approximation leaves open: whether it is inexact, whether it was rounded up, and its result when
an unmasked overflow or underflow moves the exponent. -/
structure Open where
  inexact : Bool
  up : Bool
  wild : Word80
  deriving DecidableEq, Repr

def drawOpen : M Open := do
  let b ← free 2
  return { inexact := b.getLsbD 0, up := b.getLsbD 1, wild := ← free 80 }

/-- The exceptions of a computed approximation v (R922, R923). -/
def xApprox (masks : Byte) (o : Open) (v : Word80) : XRes Word80 :=
  let p := flagIf o.inexact xPE
  let up := o.inexact && o.up
  match extCls v with
  | .inf =>
    if masks &&& xOE != 0 then { flags := xOE ||| xPE, up := o.up, val := some v }
    else { flags := xOE ||| p, up, val := some o.wild }
  | .zero => small p up
  | .denormal => small p up
  | _ => { flags := p, up, val := some v }
where
  small (p : Byte) (up : Bool) : XRes Word80 :=
    if masks &&& xUE != 0 then { flags := if o.inexact then xUE ||| p else p, up, val := some v }
    else { flags := xUE ||| p, up, val := some o.wild }

/-- |v| < 2^63. -/
def trigRange (v : Val) : Bool :=
  match v with
  | .zero _ => true
  | .inf _ => false
  | .fin x => decide (x.top < 63)

def trigOp (v : Val) : Op :=
  match v with
  | .inf _ => .invalid
  | _ => .val v

/-- A trigonometric instruction: C2 says whether the operand was in range (R1005). Out of range ST(0) is unchanged, and C1 is
cleared, of which R1005 to R1008 say nothing; in range C2 is cleared also where an unmasked stack overflow or #D prevents the
result, where 44 R925 says that nothing changes but the flags and ES (DESIGN CHOICE, log 16). -/
def xTrig (rm : Byte) (act : Open → Fpu → Fpu) : M Unit := do
  xReg 0xD9 rm
  let o ← drawOpen
  xCalc fun f =>
    match f.empty 0, extCls (f.st 0) with
    | false, .zero => (act o f).setC2 false
    | false, .normal => if trigRange (extVal (f.st 0)) then (act o f).setC2 false else (f.setC2 true).setC1 false
    | false, .denormal => (act o f).setC2 false
    | _, _ => act o f

/-- The result of a function that is not exact on any nonzero number; `zero` is its result on a zero. -/
def trigOf (f : Fpu) (o : Open) (g : Word80 → Word80) (zero : Word80 → Word80) (v : Val) (x : Word80) : XRes Word80 :=
  match v with
  | .zero _ => xExact (zero x)
  | _ => xApprox f.masks { o with inexact := true } (g x)

/-- R1005. -/
def Fpu.sin (o : Open) (f : Fpu) : Fpu := f.unary trigOp fun v => trigOf f o Config.x87Fsin id v (f.st 0)
/-- The value 1.0. -/
def extOne : Word80 := 0x3FFF8000000000000000
/-- R1006. -/
def Fpu.cos (o : Open) (f : Fpu) : Fpu := f.unary trigOp fun v => trigOf f o Config.x87Fcos (fun _ => extOne) v (f.st 0)

/-- R1007. An infinity is #I as R1005 says of FSIN, and masked leaves two indefinites, where R1007 names no such case (DESIGN
CHOICE, log 16). -/
def Fpu.sincos (o : Open) (f : Fpu) : Fpu :=
  let a := f.arg 0
  f.replacePush (xRun f.masks [a] both (fun n => both (extInf n)) (trigOp (extVal a.v)) fun v =>
    let s := trigOf f o Config.x87Fsin id v a.v
    let c := trigOf f o Config.x87Fcos (fun _ => extOne) v a.v
    { flags := s.flags ||| c.flags, up := c.up
      val := match s.val, c.val with | some x, some y => some (x, y) | _, _ => none })

/-- R1008. An infinity is #I as for `Fpu.sincos`, and a zero gives that zero exactly, which R1005 says of FSIN and R1008 not of
FPTAN (DESIGN CHOICE, log 16). -/
def Fpu.tan (o : Open) (f : Fpu) : Fpu :=
  let a := f.arg 0
  f.replacePush (xRun f.masks [a] both (fun n => both (extInf n)) (trigOp (extVal a.v)) fun v =>
    let t := trigOf f o Config.x87Ftan id v a.v
    { flags := t.flags, up := t.up, val := t.val.map (·, extOne) })

/-- R1005. -/
def execFsin (s : State) : Host.Outcome State Fault Refusal := runPlain false (xTrig 0xFE Fpu.sin) s
/-- R1006. -/
def execFcos (s : State) : Host.Outcome State Fault Refusal := runPlain false (xTrig 0xFF Fpu.cos) s
/-- R1007. -/
def execFsincos (s : State) : Host.Outcome State Fault Refusal := runPlain false (xTrig 0xFB Fpu.sincos) s
/-- R1008. -/
def execFptan (s : State) : Host.Outcome State Fault Refusal := runPlain false (xTrig 0xF2 Fpu.tan) s

/-- k pi / 4 with a sign: the special results of FPATAN, rounded by RC to 64 bits, inexact, with C1 by the rounding, none of
which R1009 says (DESIGN CHOICE, log 16). -/
def piQuarters (f : Fpu) (neg : Bool) (k : Nat) : XRes Word80 :=
  roundExt f.rc 64 f.masks (.fin { xPi with neg, mant := k * xPi.mant, exp := xPi.exp - 2 })

/-- The angle of (x, y): the special cases of the IEEE table (R1009), else the approximation. -/
def patan (f : Fpu) (o : Open) (y x : Val) (yw xw : Word80) : XRes Word80 :=
  let n := y.neg
  match y, x with
  | .zero _, _ => if x.neg then piQuarters f n 4 else xExact (extZero n)
  | .inf _, .inf m => piQuarters f n (if m then 3 else 1)
  | .inf _, _ => piQuarters f n 2
  | .fin _, .zero _ => piQuarters f n 2
  | .fin _, .inf m => if m then piQuarters f n 4 else xExact (extZero n)
  | .fin _, .fin _ => xApprox f.masks { o with inexact := true } (Config.x87Fpatan yw xw)

/-- A function of ST(1) and ST(0) into ST(1), then a pop. -/
def Fpu.binary (f : Fpu) (op : Val → Val → Op) (finish : Val → Val → XRes Word80) : Fpu :=
  let (y, x) := (f.arg 1, f.arg 0)
  f.settle (xRun f.masks [y, x] id extInf (op (extVal y.v) (extVal x.v)) fun _ => finish (extVal y.v) (extVal x.v))
    fun f v => (f.setSt 1 v).pop

def xBinary (rm : Byte) (op : Val → Val → Op) (finish : Fpu → Open → Val → Val → XRes Word80) : M Unit := do
  xReg 0xD9 rm
  let o ← drawOpen
  xCalc fun f => f.binary op (finish f o)

/-- R1009. -/
def execFpatan (s : State) : Host.Outcome State Fault Refusal :=
  runPlain false (xBinary 0xF3 (fun y _ => .val y) fun f o y x => patan f o y x (f.st 1) (f.st 0)) s

/-- |v| <= 1. -/
def unitRange (v : Val) : Bool :=
  match v with
  | .zero _ => true
  | .inf _ => false
  | .fin x => exactCmp (some { x with neg := false }) (some { neg := false, mant := 1, exp := 0 }) != .gt

/-- R1010: outside -1 to 1 the result is a free value (93 U32). Such an operand, an infinity too, raises no exception and
clears C1, of which R1010 says nothing (DESIGN CHOICE, log 16). -/
def execF2xm1 (s : State) : Host.Outcome State Fault Refusal :=
  runPlain false (do
    xReg 0xD9 0xF0
    let o ← drawOpen
    xCalc fun f => f.unary .val fun v =>
      match v with
      | .zero n => xExact (extZero n)
      | _ =>
        if unitRange v then xApprox f.masks o (Config.x87F2xm1 (f.st 0)) else xExact o.wild) s

/-- Order of a value against 1. -/
def cmpOne (v : Val) : Ordering := valCmp v (exactOfInt 1)

/-- The operands of ST(1) * log2(ST(0)) that are invalid or divide by zero (R1011). -/
def yl2xOp (y x : Val) : Op :=
  match x, y with
  | .zero _, .fin w => .zeroDiv !w.neg
  | .zero _, .zero _ => .invalid
  | .zero _, .inf _ => .val y
  | .inf _, .zero _ => .invalid
  | .inf n, _ => if n then .invalid else .val y
  | .fin w, .inf _ => if w.neg || cmpOne x == .eq then .invalid else .val y
  | .fin w, _ => if w.neg then .invalid else .val y

/-- The result v of a function of which an operand is a zero or an infinity and of which no rule documents the result: v is
as open as on numbers, and so are the precision flag and C1; there is no overflow or underflow (DESIGN CHOICE, log 16). -/
def xUndocumented (o : Open) (v : Word80) : XRes Word80 :=
  { flags := flagIf o.inexact xPE, up := o.inexact && o.up, val := some v }

/-- R1011: the operands that `yl2xOp` lets through. What a zero or an infinity gives, and ST(0) = 1, R1011 does not document. -/
def yl2x (f : Fpu) (o : Open) (y x : Val) : XRes Word80 :=
  let v := Config.x87Fyl2x (f.st 1) (f.st 0)
  match x, y with
  | .fin _, .fin _ => xApprox f.masks o v
  | _, _ => xUndocumented o v

/-- R1011. -/
def execFyl2x (s : State) : Host.Outcome State Fault Refusal := runPlain false (xBinary 0xF1 yl2xOp yl2x) s

/-- |v| <= 1 - sqrt(2)/2, that is 2 (1 - |v|)^2 >= 1 (R1012). -/
def yl2xp1Range (v : Val) : Bool :=
  match v with
  | .zero _ => true
  | .inf _ => false
  | .fin x =>
    match Exact.add { neg := false, mant := 1, exp := 0 } { x with neg := true } with
    | none => false
    | some r =>
      decide (x.top < 0) && exactCmp (some { (r.mul r) with exp := 2 * r.exp + 1 }) (some { neg := false, mant := 1, exp := 0 }) != .lt

/-- An infinite ST(1) times the logarithm of 1 is invalid, the 0 * inf of R923 (DEDUCED, log 16). -/
def yl2xp1Op (y x : Val) : Op :=
  match x, y with
  | .zero _, .inf _ => .invalid
  | _, _ => .val y

/-- R1012: outside its range the result is a free value (93 U32), with no exception and C1 clear as for F2XM1 (DESIGN CHOICE,
log 16). What a zero or an infinity gives within it R1012 does not document. -/
def yl2xp1 (f : Fpu) (o : Open) (y x : Val) : XRes Word80 :=
  let v := Config.x87Fyl2xp1 (f.st 1) (f.st 0)
  if !yl2xp1Range x then xExact o.wild
  else match x, y with
    | .fin _, .fin _ => xApprox f.masks o v
    | _, _ => xUndocumented o v

/-- R1012. -/
def execFyl2xp1 (s : State) : Host.Outcome State Fault Refusal := runPlain false (xBinary 0xF9 yl2xp1Op yl2xp1) s

/-! ## Control (R1020 to R1041) -/

/-- R1020. -/
def Fpu.init (f : Fpu) : Fpu :=
  { f with cw := 0x037F, sw := 0, tw := 0xFFFF, fipSel := 0, fip := 0, fdpSel := 0, fdp := 0, fop := 0 }

/-- R1020. -/
def execFninit (s : State) : Host.Outcome State Fault Refusal := runPlain false (do xUse false; fpuDo Fpu.init) s

/-- R1021: C0 to C3 are undefined (93 U35). -/
def execFnclex (s : State) : Host.Outcome State Fault Refusal :=
  runPlain false (do
    xUse false
    drawCodes
    let c1 ← freeBit
    fpuDo fun f => { f with sw := f.sw &&& 0x7F00 }.setC1 c1) s

/-- A control instruction that reads memory. -/
def xControlLoad (w : Nat) (m : MemRef) : M (BitVec w) := do
  xUse true
  readMem w m

/-- R1022. The reserved bits of CW are stored as written (DESIGN CHOICE, log 16). -/
def execFldcw (m : MemRef) (s : State) : Host.Outcome State Fault Refusal :=
  runPlain false (do
    let v : Word16 ← xControlLoad 16 m
    fpuDo fun f => { f with cw := v }.summary) s

/-- R1023. -/
def execFnstcw (m : MemRef) (s : State) : Host.Outcome State Fault Refusal :=
  runPlain false (do xUse false; writeMem m (← getFpu).cw) s

/-- R1024. -/
def execFnstsw (f : StswForm) (s : State) : Host.Outcome State Fault Refusal :=
  runPlain false
    (match f with
     | .mem m => do xUse false; writeMem m (← getFpu).sw
     | .ax => do xUse false; putReg .w rAX (← getFpu).sw) s

/-- Fields of an image, the first at the lowest address: widths in bits and values. -/
def image : List (Nat × Nat) → Nat
  | [] => 0
  | (w, v) :: rest => v % 2 ^ w + 2 ^ w * image rest

/-- The w bits at a byte offset of an image. -/
def field (v off w : Nat) : Nat := v / 2 ^ (8 * off) % 2 ^ w

/-- The linear address that the real-address formats hold. -/
def realPointer (sel : Word16) (off : Word32) : Nat := (sel.setWidth 32 * 16 + off).toNat

/-- The size of the environment (R1025). -/
def envSize (os32 : Bool) : Nat := if os32 then 28 else 14

/-- The environment (R1025); r holds what the reserved parts are stored as (log 16). -/
def Fpu.env (f : Fpu) (os32 pe : Bool) (r : Nat) : Nat :=
  let (ip, dp) := (realPointer f.fipSel f.fip, realPointer f.fdpSel f.fdp)
  let rsv (off : Nat) : Nat × Nat := (16, field r off 16)
  match os32, pe with
  | true, true =>
    image [(16, f.cw.toNat), rsv 2, (16, f.sw.toNat), rsv 6, (16, f.tw.toNat), rsv 10, (32, f.fip.toNat),
      (16, f.fipSel.toNat), (16, f.fop.toNat), (32, f.fdp.toNat), (16, f.fdpSel.toNat), rsv 26]
  | true, false =>
    image [(16, f.cw.toNat), rsv 2, (16, f.sw.toNat), rsv 6, (16, f.tw.toNat), rsv 10, (16, ip), rsv 14,
      (12, f.fop.toNat), (16, ip / 65536), (4, 0), (16, dp), rsv 22, (12, 0), (16, dp / 65536), (4, 0)]
  | false, true =>
    image [(16, f.cw.toNat), (16, f.sw.toNat), (16, f.tw.toNat), (16, f.fip.toNat), (16, f.fipSel.toNat),
      (16, f.fdp.toNat), (16, f.fdpSel.toNat)]
  | false, false =>
    image [(16, f.cw.toNat), (16, f.sw.toNat), (16, f.tw.toNat), (16, ip), (12, f.fop.toNat), (4, ip / 65536),
      (16, dp), (12, 0), (4, dp / 65536)]

/-- Load an environment; the real-address formats give a linear address, kept as an offset with selector 0, and the
16-bit protected format has no opcode, so FOP stays (R1025, R1026; log 16). An offset of 16 or 20 bits is zero-extended, and
the reserved bits of CW are stored as written (DESIGN CHOICE, log 16). ES and B are computed anew. -/
def Fpu.loadEnv (f : Fpu) (os32 pe : Bool) (v : Nat) : Fpu :=
  let b (w off : Nat) : BitVec w := BitVec.ofNat w (field v off w)
  let g : Fpu := match os32, pe with
    | true, true => { f with
        cw := b 16 0, sw := b 16 4, tw := b 16 8, fip := b 32 12, fipSel := b 16 16, fop := b 11 18
        fdp := b 32 20, fdpSel := b 16 24 }
    | true, false => { f with
        cw := b 16 0, sw := b 16 4, tw := b 16 8, fipSel := 0, fdpSel := 0, fop := b 11 16
        fip := (b 32 16).extractLsb' 12 16 ++ b 16 12, fdp := (b 32 24).extractLsb' 12 16 ++ b 16 20 }
    | false, true => { f with
        cw := b 16 0, sw := b 16 2, tw := b 16 4, fip := (b 16 6).setWidth 32, fipSel := b 16 8
        fdp := (b 16 10).setWidth 32, fdpSel := b 16 12 }
    | false, false => { f with
        cw := b 16 0, sw := b 16 2, tw := b 16 4, fipSel := 0, fdpSel := 0, fop := b 11 8
        fip := ((b 16 8).extractLsb' 12 4 ++ b 16 6).setWidth 32
        fdp := ((b 16 12).extractLsb' 12 4 ++ b 16 10).setWidth 32 }
  g.summary

/-- R1026. -/
def execFldenv (m : MemRef) (s : State) : Host.Outcome State Fault Refusal :=
  runPlain false (do
    let v ← xControlLoad (8 * envSize s.os32) m
    fpuDo (·.loadEnv s.os32 s.pe v.toNat)) s

/-- R1027: the image, then all exceptions masked. -/
def execFnstenv (m : MemRef) (s : State) : Host.Outcome State Fault Refusal :=
  runPlain false (do
    xUse false
    let addrs ← memAddrs m (envSize s.os32) true
    let r ← free 224
    writeAt ((← getFpu).env s.os32 s.pe r.toNat) addrs
    fpuDo fun f => { f with cw := f.cw ||| 0x3F }.summary) s

/-- The registers in stack order as one number, ST(0) lowest. -/
def Fpu.stackImage (f : Fpu) : Nat :=
  image [(80, (f.st 0).toNat), (80, (f.st 1).toNat), (80, (f.st 2).toNat), (80, (f.st 3).toNat),
    (80, (f.st 4).toNat), (80, (f.st 5).toNat), (80, (f.st 6).toNat), (80, (f.st 7).toNat)]

/-- Load ST(i) from the given bits of an image, tags untouched. -/
def Fpu.loadStack (f : Fpu) (v : Nat) (base stride : Nat) : Fpu :=
  let put (f : Fpu) (i : Nat) : Fpu :=
    { f with regs := f.regs.set (f.phys (BitVec.ofNat 3 i)) (BitVec.ofNat 80 (field v (base + stride * i) 80)) }
  (List.range 8).foldl put f

/-- R1029. -/
def execFnsave (m : MemRef) (s : State) : Host.Outcome State Fault Refusal :=
  runPlain false (do
    xUse false
    let n := envSize s.os32
    let addrs ← memAddrs m (n + 80) true
    let r ← free 224
    let f ← getFpu
    writeAt (image [(8 * n, f.env s.os32 s.pe r.toNat), (640, f.stackImage)]) addrs
    fpuDo Fpu.init) s

/-- R1028. -/
def execFrstor (m : MemRef) (s : State) : Host.Outcome State Fault Refusal :=
  runPlain false (do
    let n := envSize s.os32
    let v ← xControlLoad (8 * (n + 80)) m
    fpuDo fun f => (f.loadEnv s.os32 s.pe v.toNat).loadStack v.toNat n 10) s

/-- R1030. -/
def execFincstp (s : State) : Host.Outcome State Fault Refusal :=
  runPlain false (do xReg 0xD9 0xF7; fpuDo fun f => (f.setTop (f.top + 1)).setC1 false) s
/-- R1031. -/
def execFdecstp (s : State) : Host.Outcome State Fault Refusal :=
  runPlain false (do xReg 0xD9 0xF6; fpuDo fun f => (f.setTop (f.top - 1)).setC1 false) s
/-- R1032. -/
def execFfree (i : RegNum) (s : State) : Host.Outcome State Fault Refusal :=
  runPlain false (do xReg 0xDD (modrm 3 0 i); fpuDo fun f => f.setTag (f.phys i) 3) s
/-- R1040. -/
def execFnop (s : State) : Host.Outcome State Fault Refusal := runPlain false (xReg 0xD9 0xD0) s

/-- R1041. -/
def execFwait (s : State) : Host.Outcome State Fault Refusal :=
  runPlain false (do
    if s.cr0.getLsbD 1 && s.cr0.getLsbD 3 then raiseNM
    xPending) s

/-! ## FXSAVE and FXRSTOR (R1042, R1043) -/

/-- The addresses of the 512-byte image: #UD, #NM, then alignment (R1042), which comes before the checks of the segment and
of the pages: R1042 and R1043 give no order (DESIGN CHOICE, log 16). -/
def fxAddrs (m : MemRef) (write : Bool) : M (List Nat) := do
  let s ← ask id
  if s.cr0.getLsbD 2 || !Config.hasFxsr then raiseUD
  if s.cr0.getLsbD 3 then raiseNM
  if ((s.seg (s.memSeg m)).base + s.ea m).toNat % 16 != 0 then raiseGP 0
  memAddrs m 512 write

/-- One bit for each physical register that is not empty. -/
def Fpu.abridged (f : Fpu) : Nat :=
  (List.range 8).foldl (fun v i => if f.tag (BitVec.ofNat 3 i) == 3 then v else v + 2 ^ i) 0

/-- The full tag word from the abridged one and the registers (R1043). -/
def Fpu.fullTags (f : Fpu) (v : Nat) : Fpu :=
  (List.range 8).foldl
    (fun f i => f.setTag (BitVec.ofNat 3 i) (if v.testBit i then tagOf (f.regs.get (BitVec.ofNat 3 i)) else 3)) f

/-- The image; r holds what the reserved parts are stored as, x what MXCSR and the XMM registers are stored as. -/
def fxImage (f : Fpu) (r x : Nat) : Nat :=
  let stSlot (i : RegNum) : List (Nat × Nat) :=
    [(80, (f.st i).toNat), (48, field r (32 + 16 * i.toNat + 10) 48)]
  image ([(16, f.cw.toNat), (16, f.sw.toNat), (8, f.abridged), (8, field r 5 8), (16, f.fop.toNat), (32, f.fip.toNat),
    (16, f.fipSel.toNat), (16, field r 14 16), (32, f.fdp.toNat), (16, f.fdpSel.toNat), (16, field r 22 16),
    (32, field x 24 32), (32, Config.mxcsrMask.toNat)] ++ stSlot 0 ++ stSlot 1 ++ stSlot 2 ++ stSlot 3 ++ stSlot 4
    ++ stSlot 5 ++ stSlot 6 ++ stSlot 7 ++ [(1024, field x 160 1024), (1792, field r 288 1792)])

/-- MXCSR and the XMM registers at their places in an image. -/
def sseImage (s : State) : Nat :=
  image [(192, 0), (32, s.mxcsr.toNat), (1056, 0), (128, s.xmm.r0.toNat), (128, s.xmm.r1.toNat), (128, s.xmm.r2.toNat),
    (128, s.xmm.r3.toNat), (128, s.xmm.r4.toNat), (128, s.xmm.r5.toNat), (128, s.xmm.r6.toNat), (128, s.xmm.r7.toNat)]

/-- R1042: with CR4.OSFXSR = 0 MXCSR and the XMM registers are not saved, their bytes of the image as they were (10_state
R75). -/
def execFxsave (m : MemRef) (s : State) : Host.Outcome State Fault Refusal :=
  runPlain false (do
    let addrs ← fxAddrs m true
    let r ← free 4096
    let old ← readAt 4096 addrs
    writeAt (fxImage s.fpu r.toNat (if s.cr4.getLsbD 9 then sseImage s else old.toNat)) addrs) s

/-- R1043. A pending x87 exception is not checked, which R1042 says of FXSAVE and no rule of FXRSTOR, and the reserved bits
15:13 and 7:6 of CW (10_state R92) are stored as written (DESIGN CHOICE, log 16). -/
def execFxrstor (m : MemRef) (s : State) : Host.Outcome State Fault Refusal :=
  runPlain false (do
    let v := (← readAt 4096 (← fxAddrs m false)).toNat
    let b (w off : Nat) : BitVec w := BitVec.ofNat w (field v off w)
    if s.cr4.getLsbD 9 then
      if b 32 24 &&& ~~~Config.mxcsrMask != 0 then raiseGP 0
      update fun s => { s with
        mxcsr := b 32 24
        xmm := ⟨b 128 160, b 128 176, b 128 192, b 128 208, b 128 224, b 128 240, b 128 256, b 128 272⟩ }
    fpuDo fun f =>
      let g : Fpu := { f with
        cw := b 16 0, sw := b 16 2, fop := b 11 6, fip := b 32 8, fipSel := b 16 12, fdp := b 32 16, fdpSel := b 16 20 }
      ((g.loadStack v 32 16).fullTags (field v 4 8)).summary) s

end Sys2Proof.Machine
end

