-- ==== Sys2Proof/Machine/Packed.lean ====
section
/-! DEFINITION. Packed integers in MMX and XMM registers (45_mmx; 46_sse section 5; 48_sse2_int), with the non-temporal
stores, the hints and the fences (46_sse section 6; 48_sse2_int section 8). One meaning serves both register widths. -/
namespace Sys2Proof.Machine

/-! ## Elements (45 R1060, 48 R1360) -/

/-- Element i of w bits. -/
def lane (w : Nat) {n : Nat} (v : BitVec n) (i : Nat) : BitVec w := v.extractLsb' (w * i) w

/-- The elements, the least significant first. -/
def lanes (w : Nat) {n : Nat} (v : BitVec n) : List (BitVec w) := (List.range (n / w)).map (lane w v)

/-- Put elements together, the first lowest. -/
def ofLanes {w : Nat} (n : Nat) (l : List (BitVec w)) : BitVec n :=
  BitVec.ofNat n (l.foldr (fun x acc => x.toNat + 2 ^ w * acc) 0)

/-- The value with element i replaced. -/
def setLane {w n : Nat} (v : BitVec n) (i : Nat) (x : BitVec w) : BitVec n := ofLanes n ((lanes w v).set i x)

/-- An operation on 64-bit or 128-bit operands. -/
abbrev PkOp := ∀ n : Nat, BitVec n → BitVec n → BitVec n

/-- Element by element. -/
def mapLanes {w : Nat} (f : BitVec w → BitVec w → BitVec w) : PkOp :=
  fun n d s => ofLanes n (List.zipWith f (lanes w d) (lanes w s))

/-- Saturation to w bits (45 R1063). -/
def satS (w : Nat) (v : Int) : BitVec w :=
  BitVec.ofInt w (max (-(2 ^ (w - 1) : Int)) (min v (2 ^ (w - 1) - 1 : Int)))
def satU (w : Nat) (v : Int) : BitVec w := BitVec.ofInt w (max 0 (min v (2 ^ w - 1 : Int)))

/-- Pack: the elements of the destination, then those of the source, each narrowed (45 R1068). -/
def packLanes {w v : Nat} (f : BitVec w → BitVec v) : PkOp :=
  fun n d s => ofLanes n ((lanes w d ++ lanes w s).map f)

def interleave {α : Type} : List α → List α → List α
  | a :: as, b :: bs => a :: b :: interleave as bs
  | _, _ => []

/-- Interleave the low or the high halves (45 R1071, R1072). -/
def unpack (w : Nat) (high : Bool) : PkOp := fun n d s =>
  let k := n / w / 2
  let half (l : List (BitVec w)) := if high then l.drop k else l.take k
  ofLanes n (interleave (half (lanes w d)) (half (lanes w s)))

/-- All ones or zero. -/
def maskLane {w : Nat} (b : Bool) : BitVec w := if b then BitVec.allOnes w else 0

/-- Products of signed words added in pairs (45 R1079). -/
def maddwd : PkOp := fun n d s =>
  ofLanes n (List.zipWith (fun a b : BitVec 32 =>
    let p (i : Nat) : BitVec 32 := (lane 16 a i).signExtend 32 * (lane 16 b i).signExtend 32
    p 0 + p 1) (lanes 32 d) (lanes 32 s))

/-- Full products of the even doublewords (48 R1392). -/
def muludq : PkOp := mapLanes fun a b : BitVec 64 => (lane 32 a 0).setWidth 64 * (lane 32 b 0).setWidth 64

/-- Sum of absolute differences of the bytes of each quadword (46 R1220). -/
def sadbw : PkOp := mapLanes fun a b : BitVec 64 =>
  BitVec.ofNat 64 ((List.zipWith (fun x y : Byte => max x.toNat y.toNat - min x.toNat y.toNat) (lanes 8 a) (lanes 8 b)).foldr
    (· + ·) 0)

/-! ## Shifts by a count (45 R1089 to R1092) -/

def shiftLanes (w : Nat) (f : BitVec w → Nat → BitVec w) {n : Nat} (d : BitVec n) (cnt : Nat) : BitVec n :=
  ofLanes n ((lanes w d).map (f · cnt))

/-- The shifts of BitVec give zero, or the sign for an arithmetic right shift, when the count is the width or more. -/
def shl {w : Nat} (x : BitVec w) (c : Nat) : BitVec w := x <<< (min c w)
def shr {w : Nat} (x : BitVec w) (c : Nat) : BitVec w := x >>> (min c w)
def sar {w : Nat} (x : BitVec w) (c : Nat) : BitVec w := x.sshiftRight (min c w)

/-! ## Availability and the transition (10_state R101, R105; 45 R1062; 48 R1361) -/

/-- An MMX instruction may run: #UD, #NM, #MF in this order; `has` is the feature it needs. -/
def mmxUse (has : Bool) : M Unit := do
  let s ← ask id
  if s.cr0.getLsbD 2 || !has then raiseUD
  if s.cr0.getLsbD 3 then raiseNM
  xPending

/-- An MMX instruction sets TOP to 0 and every tag to valid (10_state R101). -/
def mmxDone : M Unit := fpuDo fun f => { f.setTop 0 with tw := 0 }

/-- An instruction on XMM registers may run (10_state R105). -/
def sseUse (has : Bool) : M Unit := do
  let s ← ask id
  if s.cr0.getLsbD 2 || !s.cr4.getLsbD 9 || !has then raiseUD
  if s.cr0.getLsbD 3 then raiseNM

/-- An event of a vector instruction, by CR0.PE: in real-address mode an operand outside 0 to FFFFH is #GP in the stack
segment too. -/
def Event.asReal (e : Event) (pe : Bool) : Event := if !pe && e.vector == 12 then { e with vector := 13 } else e

/-- The checks of a vector instruction's memory operand, by mode: the lists of 45 R1062, 46 R1141, 47 R1261 and 48 R1361 have
no #SS in real-address mode, where 20_memory R212 raises it in general (DEDUCED, log 45). -/
def realGp {α : Type} (x : M α) : M α := fun s =>
  match x s with
  | .error (.event e) t => .error (.event (e.asReal s.pe)) t
  | r => r

/-- Run the body of an instruction on MMX or XMM registers. -/
def runSimd (body : M Unit) (s : State) : Host.Outcome State Fault Refusal := runPlain false (realGp body) s

/-! On a processor without SSE2 (log 27) the 66 prefix of an instruction that has a 64-bit form is ignored, and that form
runs (R1362, 92 D26). PEXTRW and PINSRW, and the instructions with no 64-bit form, are #UD there: `sseUse`. -/

/-- The form of a packed instruction that runs. -/
def pkForm (sse2 : Bool) (o : Pk) : Pk :=
  match sse2, o with
  | false, .xmm d x => .mm d x
  | _, _ => o

/-- The form of a packed shift that runs. -/
def shiftForm (sse2 : Bool) (o : PkShift) : PkShift :=
  match sse2, o with
  | false, .immXmm r c => .immMm r c
  | _, _ => o

/-- The form of MOVD that runs. -/
def movdForm (sse2 : Bool) (f : MovdForm) : MovdForm :=
  match sse2, f with
  | false, .toXmm d x => .toMm d x
  | false, .fromXmm x r => .fromMm x r
  | _, _ => f

/-- The form of PMOVMSKB that runs. -/
def maskForm (sse2 : Bool) (o : PkToGpr) : PkToGpr :=
  match sse2, o with
  | false, .xmm d r => .mm d r
  | _, _ => o

/-- A packed integer instruction: `has64` is the feature its 64-bit form needs. -/
def pkRun (has64 : Bool) (op : PkOp) (o : Pk) : M Unit :=
  match pkForm Config.hasSse2 o with
  | .mm d x => do
    mmxUse has64
    let b ← readMmRm x
    let a ← getMm d
    putMm d (op 64 a b)
    mmxDone
  | .xmm d x => do
    sseUse Config.hasSse2
    let b ← readX x
    let a ← getXmm d
    putXmm d (op 128 a b)

/-- The unpack-low instructions read only four bytes of memory in their 64-bit form (45 R1072). -/
def pkLow (w : Nat) (o : Pk) : M Unit :=
  match pkForm Config.hasSse2 o with
  | .mm d (.mem m) => do
    mmxUse true
    let b : Word32 ← readMem 32 m
    let a ← getMm d
    putMm d (unpack w false 64 a (b.setWidth 64))
    mmxDone
  | o => pkRun true (unpack w false) o

/-- An instruction on XMM registers only. -/
def xmmRun (has : Bool) (op : Word128 → Word128 → Word128) (d : RegNum) (x : Rm) : M Unit := do
  sseUse has
  let b ← readX x
  let a ← getXmm d
  putXmm d (op a b)

/-- A packed shift in all its rows: the register or memory count is the low quadword of the source (48 R1425). -/
def pkShift (w : Nat) (f : BitVec w → Nat → BitVec w) (o : PkShift) : M Unit :=
  match shiftForm Config.hasSse2 o with
  | .by o => pkRun true (fun _ d s => shiftLanes w f d (s.setWidth 64).toNat) o
  | .immMm r c => do
    mmxUse true
    let a ← getMm r
    putMm r (shiftLanes w f a c.toNat)
    mmxDone
  | .immXmm r c => do
    sseUse Config.hasSse2
    let a ← getXmm r
    putXmm r (shiftLanes w f a c.toNat)

/-! ## Data movement (45 R1065 to R1067; 48 R1365 to R1370) -/

/-- R1065. -/
def execEmms (s : State) : Host.Outcome State Fault Refusal :=
  runSimd (do
    mmxUse true
    fpuDo fun f => { f with tw := 0xFFFF }) s

/-- The doubleword forms always use 32 bits (45 R1066, R1365). -/
def execMovd (f : MovdForm) (s : State) : Host.Outcome State Fault Refusal :=
  runSimd
    (match movdForm Config.hasSse2 f with
     | .toMm d x => do
       mmxUse true
       let v ← readRm .d x
       putMm d (v.setWidth 64)
       mmxDone
     | .fromMm x r => do
       mmxUse true
       writeRm .d x ((← getMm r).setWidth 32)
       mmxDone
     | .toXmm d x => do
       sseUse Config.hasSse2
       let v ← readRm .d x
       putXmm d (v.setWidth 128)
     | .fromXmm x r => do
       sseUse Config.hasSse2
       writeRm .d x ((← getXmm r).setWidth 32)) s

/-- R1067, R1370. -/
def execMovq (f : MovqForm) (s : State) : Host.Outcome State Fault Refusal :=
  runSimd
    (match f with
     | .toMm d x => do
       mmxUse true
       putMm d (← readMmRm x)
       mmxDone
     | .fromMm x r => do
       mmxUse true
       let v ← getMm r
       match x with
       | .reg d => putMm d v
       | .mem m => writeMem m v
       mmxDone
     | .toXmm d x => do
       sseUse Config.hasSse2
       let v : Word64 ← readXmmRm 64 x
       putXmm d (v.setWidth 128)
     | .fromXmm x r => do
       sseUse Config.hasSse2
       let v : Word64 := (← getXmm r).setWidth 64
       match x with
       | .reg d => putXmm d (v.setWidth 128)
       | .mem m => writeMem m v) s

/-- The addresses of a 16-byte operand with no alignment rule: #AC may occur when alignment checking is on and the
address is not a multiple of 16, a free choice (46 R1156, 48 R1367). -/
def looseAddrs (m : MemRef) (write : Bool) : M (List Nat) := do
  let addrs ← memAddrs m 16 write
  let s ← ask id
  if s.alignOn && ((s.seg (s.memSeg m)).base + s.ea m).toNat % 16 != 0 then
    if ← freeBit then raiseAC
  return addrs

/-- A 16-byte move between XMM registers and memory, whose operand `addrs` checks. -/
def xmmMove (has : Bool) (addrs : MemRef → Bool → M (List Nat)) (f : XMove) : M Unit := do
  sseUse has
  match f with
  | .load d (.reg r) => putXmm d (← getXmm r)
  | .load d (.mem m) => putXmm d (← readAt 128 (← addrs m false))
  | .store (.reg d) r => putXmm d (← getXmm r)
  | .store (.mem m) r => do
    let v ← getXmm r
    writeAt v.toNat (← addrs m true)

/-- R1366. -/
def execMovdqa (f : XMove) (s : State) : Host.Outcome State Fault Refusal := runSimd (xmmMove Config.hasSse2 alignedAddrs f) s
/-- R1367. -/
def execMovdqu (f : XMove) (s : State) : Host.Outcome State Fault Refusal := runSimd (xmmMove Config.hasSse2 looseAddrs f) s

/-- A move between MMX and XMM registers may run: the XMM checks, then a pending x87 exception (R1368). -/
def mixedUse : M Unit := do
  sseUse Config.hasSse2
  xPending

/-- R1368. -/
def execMovq2dq (d r : RegNum) (s : State) : Host.Outcome State Fault Refusal :=
  runSimd (do
    mixedUse
    putXmm d ((← getMm r).setWidth 128)
    mmxDone) s
/-- R1369. -/
def execMovdq2q (d r : RegNum) (s : State) : Host.Outcome State Fault Refusal :=
  runSimd (do
    mixedUse
    putMm d ((← getXmm r).setWidth 64)
    mmxDone) s

/-! ## Pack and unpack (45 R1068 to R1072; 48 R1371 to R1377) -/

/-- R1068, R1372. -/
def execPacksswb (o : Pk) (s : State) : Host.Outcome State Fault Refusal :=
  runSimd (pkRun true (packLanes fun x : BitVec 16 => satS 8 x.toInt) o) s
/-- R1069, R1371. -/
def execPackssdw (o : Pk) (s : State) : Host.Outcome State Fault Refusal :=
  runSimd (pkRun true (packLanes fun x : BitVec 32 => satS 16 x.toInt) o) s
/-- R1070, R1373. -/
def execPackuswb (o : Pk) (s : State) : Host.Outcome State Fault Refusal :=
  runSimd (pkRun true (packLanes fun x : BitVec 16 => satU 8 x.toInt) o) s
/-- R1071, R1374. -/
def execPunpckhbw (o : Pk) (s : State) : Host.Outcome State Fault Refusal :=
  runSimd (pkRun true (unpack 8 true) o) s
/-- R1071, R1374. -/
def execPunpckhwd (o : Pk) (s : State) : Host.Outcome State Fault Refusal :=
  runSimd (pkRun true (unpack 16 true) o) s
/-- R1071, R1374. -/
def execPunpckhdq (o : Pk) (s : State) : Host.Outcome State Fault Refusal :=
  runSimd (pkRun true (unpack 32 true) o) s
/-- R1072, R1376. -/
def execPunpcklbw (o : Pk) (s : State) : Host.Outcome State Fault Refusal :=
  runSimd (pkLow 8 o) s
/-- R1072, R1376. -/
def execPunpcklwd (o : Pk) (s : State) : Host.Outcome State Fault Refusal :=
  runSimd (pkLow 16 o) s
/-- R1072, R1376. -/
def execPunpckldq (o : Pk) (s : State) : Host.Outcome State Fault Refusal :=
  runSimd (pkLow 32 o) s

/-! ## Arithmetic (45 R1073 to R1082; 46 R1211 to R1220; 48 R1380 to R1399) -/

/-- R1073, R1381. -/
def execPaddb (o : Pk) (s : State) : Host.Outcome State Fault Refusal :=
  runSimd (pkRun true (mapLanes fun a b : BitVec 8 => a + b) o) s
/-- R1073, R1381. -/
def execPaddw (o : Pk) (s : State) : Host.Outcome State Fault Refusal :=
  runSimd (pkRun true (mapLanes fun a b : BitVec 16 => a + b) o) s
/-- R1073, R1381. -/
def execPaddd (o : Pk) (s : State) : Host.Outcome State Fault Refusal :=
  runSimd (pkRun true (mapLanes fun a b : BitVec 32 => a + b) o) s
/-- R1380. -/
def execPaddq (o : Pk) (s : State) : Host.Outcome State Fault Refusal :=
  runSimd (pkRun Config.hasSse2 (mapLanes fun a b : BitVec 64 => a + b) o) s
/-- R1074, R1382. -/
def execPaddsb (o : Pk) (s : State) : Host.Outcome State Fault Refusal :=
  runSimd (pkRun true (mapLanes fun a b : BitVec 8 => satS 8 (a.toInt + b.toInt)) o) s
/-- R1074, R1382. -/
def execPaddsw (o : Pk) (s : State) : Host.Outcome State Fault Refusal :=
  runSimd (pkRun true (mapLanes fun a b : BitVec 16 => satS 16 (a.toInt + b.toInt)) o) s
/-- R1075, R1383. -/
def execPaddusb (o : Pk) (s : State) : Host.Outcome State Fault Refusal :=
  runSimd (pkRun true (mapLanes fun a b : BitVec 8 => satU 8 ((a.toNat : Int) + b.toNat)) o) s
/-- R1075, R1383. -/
def execPaddusw (o : Pk) (s : State) : Host.Outcome State Fault Refusal :=
  runSimd (pkRun true (mapLanes fun a b : BitVec 16 => satU 16 ((a.toNat : Int) + b.toNat)) o) s
/-- R1076, R1385. -/
def execPsubb (o : Pk) (s : State) : Host.Outcome State Fault Refusal :=
  runSimd (pkRun true (mapLanes fun a b : BitVec 8 => a - b) o) s
/-- R1076, R1385. -/
def execPsubw (o : Pk) (s : State) : Host.Outcome State Fault Refusal :=
  runSimd (pkRun true (mapLanes fun a b : BitVec 16 => a - b) o) s
/-- R1076, R1385. -/
def execPsubd (o : Pk) (s : State) : Host.Outcome State Fault Refusal :=
  runSimd (pkRun true (mapLanes fun a b : BitVec 32 => a - b) o) s
/-- R1384. -/
def execPsubq (o : Pk) (s : State) : Host.Outcome State Fault Refusal :=
  runSimd (pkRun Config.hasSse2 (mapLanes fun a b : BitVec 64 => a - b) o) s
/-- R1077, R1386. -/
def execPsubsb (o : Pk) (s : State) : Host.Outcome State Fault Refusal :=
  runSimd (pkRun true (mapLanes fun a b : BitVec 8 => satS 8 (a.toInt - b.toInt)) o) s
/-- R1077, R1386. -/
def execPsubsw (o : Pk) (s : State) : Host.Outcome State Fault Refusal :=
  runSimd (pkRun true (mapLanes fun a b : BitVec 16 => satS 16 (a.toInt - b.toInt)) o) s
/-- R1078, R1387. -/
def execPsubusb (o : Pk) (s : State) : Host.Outcome State Fault Refusal :=
  runSimd (pkRun true (mapLanes fun a b : BitVec 8 => satU 8 ((a.toNat : Int) - b.toNat)) o) s
/-- R1078, R1387. -/
def execPsubusw (o : Pk) (s : State) : Host.Outcome State Fault Refusal :=
  runSimd (pkRun true (mapLanes fun a b : BitVec 16 => satU 16 ((a.toNat : Int) - b.toNat)) o) s
/-- R1079, R1388. -/
def execPmaddwd (o : Pk) (s : State) : Host.Outcome State Fault Refusal :=
  runSimd (pkRun true (maddwd) o) s
/-- R1080, R1219, R1389. -/
def execPmulhuw (o : Pk) (s : State) : Host.Outcome State Fault Refusal :=
  runSimd (pkRun Config.hasSse (mapLanes fun a b : BitVec 16 => (a.setWidth 32 * b.setWidth 32).extractLsb' 16 16) o) s
/-- R1081, R1390. -/
def execPmulhw (o : Pk) (s : State) : Host.Outcome State Fault Refusal :=
  runSimd (pkRun true (mapLanes fun a b : BitVec 16 => (a.signExtend 32 * b.signExtend 32).extractLsb' 16 16) o) s
/-- R1082, R1391. -/
def execPmullw (o : Pk) (s : State) : Host.Outcome State Fault Refusal :=
  runSimd (pkRun true (mapLanes fun a b : BitVec 16 => a * b) o) s
/-- R1392. -/
def execPmuludq (o : Pk) (s : State) : Host.Outcome State Fault Refusal :=
  runSimd (pkRun Config.hasSse2 (muludq) o) s
/-- R1211, R1393. -/
def execPavgb (o : Pk) (s : State) : Host.Outcome State Fault Refusal :=
  runSimd (pkRun Config.hasSse (mapLanes fun a b : BitVec 8 => BitVec.ofNat 8 ((a.toNat + b.toNat + 1) / 2)) o) s
/-- R1211, R1394. -/
def execPavgw (o : Pk) (s : State) : Host.Outcome State Fault Refusal :=
  runSimd (pkRun Config.hasSse (mapLanes fun a b : BitVec 16 => BitVec.ofNat 16 ((a.toNat + b.toNat + 1) / 2)) o) s
/-- R1214, R1395. -/
def execPmaxsw (o : Pk) (s : State) : Host.Outcome State Fault Refusal :=
  runSimd (pkRun Config.hasSse (mapLanes fun a b : BitVec 16 => if b.slt a then a else b) o) s
/-- R1215, R1396. -/
def execPmaxub (o : Pk) (s : State) : Host.Outcome State Fault Refusal :=
  runSimd (pkRun Config.hasSse (mapLanes fun a b : BitVec 8 => if b.ult a then a else b) o) s
/-- R1216, R1397. -/
def execPminsw (o : Pk) (s : State) : Host.Outcome State Fault Refusal :=
  runSimd (pkRun Config.hasSse (mapLanes fun a b : BitVec 16 => if a.slt b then a else b) o) s
/-- R1217, R1398. -/
def execPminub (o : Pk) (s : State) : Host.Outcome State Fault Refusal :=
  runSimd (pkRun Config.hasSse (mapLanes fun a b : BitVec 8 => if a.ult b then a else b) o) s
/-- R1220, R1399. -/
def execPsadbw (o : Pk) (s : State) : Host.Outcome State Fault Refusal :=
  runSimd (pkRun Config.hasSse (sadbw) o) s

/-! ## Compare and logical (45 R1083 to R1088; 48 R1405 to R1410) -/

/-- R1083, R1405. -/
def execPcmpeqb (o : Pk) (s : State) : Host.Outcome State Fault Refusal :=
  runSimd (pkRun true (mapLanes fun a b : BitVec 8 => maskLane (a == b)) o) s
/-- R1083, R1405. -/
def execPcmpeqw (o : Pk) (s : State) : Host.Outcome State Fault Refusal :=
  runSimd (pkRun true (mapLanes fun a b : BitVec 16 => maskLane (a == b)) o) s
/-- R1083, R1405. -/
def execPcmpeqd (o : Pk) (s : State) : Host.Outcome State Fault Refusal :=
  runSimd (pkRun true (mapLanes fun a b : BitVec 32 => maskLane (a == b)) o) s
/-- R1084, R1406. -/
def execPcmpgtb (o : Pk) (s : State) : Host.Outcome State Fault Refusal :=
  runSimd (pkRun true (mapLanes fun a b : BitVec 8 => maskLane (b.slt a)) o) s
/-- R1084, R1406. -/
def execPcmpgtw (o : Pk) (s : State) : Host.Outcome State Fault Refusal :=
  runSimd (pkRun true (mapLanes fun a b : BitVec 16 => maskLane (b.slt a)) o) s
/-- R1084, R1406. -/
def execPcmpgtd (o : Pk) (s : State) : Host.Outcome State Fault Refusal :=
  runSimd (pkRun true (mapLanes fun a b : BitVec 32 => maskLane (b.slt a)) o) s
/-- R1085, R1407. -/
def execPand (o : Pk) (s : State) : Host.Outcome State Fault Refusal :=
  runSimd (pkRun true (fun _ d s => d &&& s) o) s
/-- R1086, R1408. -/
def execPandn (o : Pk) (s : State) : Host.Outcome State Fault Refusal :=
  runSimd (pkRun true (fun _ d s => ~~~d &&& s) o) s
/-- R1087, R1409. -/
def execPor (o : Pk) (s : State) : Host.Outcome State Fault Refusal :=
  runSimd (pkRun true (fun _ d s => d ||| s) o) s
/-- R1088, R1410. -/
def execPxor (o : Pk) (s : State) : Host.Outcome State Fault Refusal :=
  runSimd (pkRun true (fun _ d s => d ^^^ s) o) s

/-- R1375. -/
def execPunpckhqdq (d : RegNum) (x : Rm) (s : State) : Host.Outcome State Fault Refusal :=
  runSimd (xmmRun Config.hasSse2 (unpack 64 true 128) d x) s
/-- R1377. -/
def execPunpcklqdq (d : RegNum) (x : Rm) (s : State) : Host.Outcome State Fault Refusal :=
  runSimd (xmmRun Config.hasSse2 (unpack 64 false 128) d x) s

/-! ## Shifts (45 R1090 to R1092; 48 R1426 to R1430) -/

/-- R1090, R1426. -/
def execPsllw (o : PkShift) (s : State) : Host.Outcome State Fault Refusal := runSimd (pkShift 16 shl o) s
/-- R1090, R1426. -/
def execPslld (o : PkShift) (s : State) : Host.Outcome State Fault Refusal := runSimd (pkShift 32 shl o) s
/-- R1090, R1426. -/
def execPsllq (o : PkShift) (s : State) : Host.Outcome State Fault Refusal := runSimd (pkShift 64 shl o) s
/-- R1091, R1427. -/
def execPsraw (o : PkShift) (s : State) : Host.Outcome State Fault Refusal := runSimd (pkShift 16 sar o) s
/-- R1091, R1427. -/
def execPsrad (o : PkShift) (s : State) : Host.Outcome State Fault Refusal := runSimd (pkShift 32 sar o) s
/-- R1092, R1428. -/
def execPsrlw (o : PkShift) (s : State) : Host.Outcome State Fault Refusal := runSimd (pkShift 16 shr o) s
/-- R1092, R1428. -/
def execPsrld (o : PkShift) (s : State) : Host.Outcome State Fault Refusal := runSimd (pkShift 32 shr o) s
/-- R1092, R1428. -/
def execPsrlq (o : PkShift) (s : State) : Host.Outcome State Fault Refusal := runSimd (pkShift 64 shr o) s

/-- A byte shift of an XMM register. -/
def byteShift (f : Word128 → Nat → Word128) (r : RegNum) (c : Byte) : M Unit := do
  sseUse Config.hasSse2
  let a ← getXmm r
  putXmm r (f a (8 * min c.toNat 16))

/-- R1429. -/
def execPslldq (r : RegNum) (n : Byte) (s : State) : Host.Outcome State Fault Refusal := runSimd (byteShift shl r n) s
/-- R1430. -/
def execPsrldq (r : RegNum) (n : Byte) (s : State) : Host.Outcome State Fault Refusal := runSimd (byteShift shr r n) s

/-! ## Extract, insert, mask, shuffle (46 R1212, R1213, R1218, R1221; 48 R1415 to R1420) -/

/-- R1212, R1415. -/
def execPextrw (o : PkToGpr) (n : Byte) (s : State) : Host.Outcome State Fault Refusal :=
  runSimd
    (match o with
     | .mm d r => do
       mmxUse Config.hasSse
       putReg .d d ((lane 16 (← getMm r) (n.toNat % 4)).setWidth 32)
       mmxDone
     | .xmm d r => do
       sseUse Config.hasSse2
       putReg .d d ((lane 16 (← getXmm r) (n.toNat % 8)).setWidth 32)) s

/-- R1213, R1416. -/
def execPinsrw (o : Pk) (n : Byte) (s : State) : Host.Outcome State Fault Refusal :=
  runSimd
    (match o with
     | .mm d x => do
       mmxUse Config.hasSse
       let v : Word16 ← readRm .w x
       putMm d (setLane (← getMm d) (n.toNat % 4) v)
       mmxDone
     | .xmm d x => do
       sseUse Config.hasSse2
       let v : Word16 ← readRm .w x
       putXmm d (setLane (← getXmm d) (n.toNat % 8) v)) s

/-- The sign bits of the elements of w bits, the first lowest. -/
def signMask (w : Nat) {n : Nat} (v : BitVec n) : Word32 :=
  ofLanes 32 ((lanes w v).map fun x => BitVec.ofBool x.msb)

/-- R1218, R1417. -/
def execPmovmskb (o : PkToGpr) (s : State) : Host.Outcome State Fault Refusal :=
  runSimd
    (match maskForm Config.hasSse2 o with
     | .mm d r => do
       mmxUse Config.hasSse
       putReg .d d (signMask 8 (← getMm r))
       mmxDone
     | .xmm d r => do
       sseUse Config.hasSse2
       putReg .d d (signMask 8 (← getXmm r))) s

/-- Two bits of an immediate. -/
def sel2 (n : Byte) (i : Nat) : Nat := (n.extractLsb' (2 * i) 2).toNat

/-- Four elements chosen by an immediate (46 R1221). -/
def shuffle4 (w : Nat) {k : Nat} (v : BitVec k) (n : Byte) : BitVec (4 * w) :=
  ofLanes (4 * w) [lane w v (sel2 n 0), lane w v (sel2 n 1), lane w v (sel2 n 2), lane w v (sel2 n 3)]

/-- R1221. -/
def execPshufw (d : RegNum) (x : Rm) (n : Byte) (s : State) : Host.Outcome State Fault Refusal :=
  runSimd (do
    mmxUse Config.hasSse
    let v ← readMmRm x
    putMm d (shuffle4 16 v n)
    mmxDone) s
/-- R1418. -/
def execPshufd (d : RegNum) (x : Rm) (n : Byte) (s : State) : Host.Outcome State Fault Refusal :=
  runSimd (xmmRun Config.hasSse2 (fun _ v => shuffle4 32 v n) d x) s
/-- R1419. -/
def execPshufhw (d : RegNum) (x : Rm) (n : Byte) (s : State) : Host.Outcome State Fault Refusal :=
  runSimd (xmmRun Config.hasSse2 (fun _ v => shuffle4 16 (lane 64 v 1) n ++ lane 64 v 0) d x) s
/-- R1420. -/
def execPshuflw (d : RegNum) (x : Rm) (n : Byte) (s : State) : Host.Outcome State Fault Refusal :=
  runSimd (xmmRun Config.hasSse2 (fun _ v => lane 64 v 1 ++ shuffle4 16 (lane 64 v 0) n) d x) s

/-! ## Non-temporal stores (46 R1225 to R1227; 48 R1440 to R1444); the hint has no effect in one processor (log 24) -/

/-- The addresses and bytes of a masked store: the bytes whose mask byte has its sign bit set. -/
def maskSlots (sg : Seg) (base : Word32) : List Byte → List Byte → Nat → M (List (Nat × Byte))
  | v :: vs, m :: ms, i => do
    if m.getLsbD 7 then
      let off ← ask (·.maskAs (base + BitVec.ofNat 32 i))
      let addrs ← dataAddrs sg off 1 true
      let rest ← maskSlots sg base vs ms (i + 1)
      return addrs.map (·, v) ++ rest
    else maskSlots sg base vs ms (i + 1)
  | _, _, _ => return []

/-- A masked store at (E)DI: every byte is checked before any is written; an all-zero mask makes no access (93 U31). -/
def maskedStore (vals masks : List Byte) : M Unit := do
  let s ← ask id
  let slots ← maskSlots (s.dataSeg .ds) (s.reg32 rDI) vals masks 0
  update fun s => slots.foldl (fun s (a, v) => physWrite8 s a v) s

/-- R1225. -/
def execMaskmovq (d m : RegNum) (s : State) : Host.Outcome State Fault Refusal :=
  runSimd (do
    mmxUse Config.hasSse
    maskedStore (lanes 8 (← getMm d)) (lanes 8 (← getMm m))
    mmxDone) s
/-- R1440. -/
def execMaskmovdqu (d m : RegNum) (s : State) : Host.Outcome State Fault Refusal :=
  runSimd (do
    sseUse Config.hasSse2
    maskedStore (lanes 8 (← getXmm d)) (lanes 8 (← getXmm m))) s

/-- R1227. -/
def execMovntq (m : MemRef) (r : RegNum) (s : State) : Host.Outcome State Fault Refusal :=
  runSimd (do
    mmxUse Config.hasSse
    writeMem m (← getMm r)
    mmxDone) s

/-- A 16-byte aligned store. -/
def storeX (has : Bool) (m : MemRef) (r : RegNum) : M Unit := do
  sseUse has
  writeAligned m (← getXmm r)

/-- R1226. -/
def execMovntps (m : MemRef) (r : RegNum) (s : State) : Host.Outcome State Fault Refusal :=
  runSimd (storeX Config.hasSse m r) s
/-- R1442. -/
def execMovntpd (m : MemRef) (r : RegNum) (s : State) : Host.Outcome State Fault Refusal :=
  runSimd (storeX Config.hasSse2 m r) s
/-- R1443. -/
def execMovntdq (m : MemRef) (r : RegNum) (s : State) : Host.Outcome State Fault Refusal :=
  runSimd (storeX Config.hasSse2 m r) s
/-- R1444: a general-purpose instruction. -/
def execMovnti (m : MemRef) (r : RegNum) (s : State) : Host.Outcome State Fault Refusal :=
  runPlain false (do
    if !Config.hasSse2 then raiseUD
    writeMem m (s.reg32 r)) s

/-! ## Hints and fences (46 R1228 to R1232; 48 R1441, R1445 to R1447; 20_memory R253, R270; log 24) -/

/-- R1231: a hint that never faults. -/
def execPrefetchnta (_m : MemRef) (s : State) : Host.Outcome State Fault Refusal := runPlain false (return ()) s
/-- R1228. -/
def execPrefetcht0 (_m : MemRef) (s : State) : Host.Outcome State Fault Refusal := runPlain false (return ()) s
/-- R1229. -/
def execPrefetcht1 (_m : MemRef) (s : State) : Host.Outcome State Fault Refusal := runPlain false (return ()) s
/-- R1230. -/
def execPrefetcht2 (_m : MemRef) (s : State) : Host.Outcome State Fault Refusal := runPlain false (return ()) s
/-- R1441: the address is checked as a one-byte read, and that check counts as a read for data breakpoints, which R1441 and
60 R1562 leave open (DESIGN CHOICE, log 10). -/
def execClflush (m : MemRef) (s : State) : Host.Outcome State Fault Refusal :=
  runPlain false (do let _ ← memAddrs m 1 false) s
/-- R1232: no exception but #UD with LOCK. -/
def execSfence (s : State) : Host.Outcome State Fault Refusal := runPlain false (return ()) s
/-- R1446. It is an SSE2 instruction, and R1446 exempts it from nothing: #UD and #NM as 10_state R105, 30 R380, 60 R1616 and
R1617 have them (DEDUCED, log 24). -/
def execLfence (s : State) : Host.Outcome State Fault Refusal := runPlain false (sseUse Config.hasSse2) s
/-- R1447. As for LFENCE, #UD and #NM (DEDUCED, log 24). -/
def execMfence (s : State) : Host.Outcome State Fault Refusal := runPlain false (sseUse Config.hasSse2) s
/-- R1445. -/
def execPause (s : State) : Host.Outcome State Fault Refusal := runPlain false (return ()) s

end Sys2Proof.Machine
end

