-- ==== Sys2Proof/Machine/Prefix.lean ====
section
/-! DEFINITION. The prefix bytes (30_encoding R310 to R314): each marks the instruction being read (log 4). -/
namespace Sys2Proof.Machine

/-- A prefix changes only the marks of the instruction being read. -/
def prefixMark (f : Cur → Cur) (s : State) : Host.Outcome State Fault Refusal := .next { s with cur := f s.cur }

def execLock (s : State) : Host.Outcome State Fault Refusal := prefixMark (fun c => { c with lock := true }) s
/-- The last of F2 and F3 takes effect (R312); that both stand is kept for the SIMD cells (93 U12). Before an instruction
that is neither a string instruction nor a SIMD one the spec reserves them, and they do nothing (R314; log 4). -/
def execRepne (s : State) : Host.Outcome State Fault Refusal :=
  prefixMark (fun c => { c with rep := some false, mix := c.mix || c.rep == some true }) s
def execRep (s : State) : Host.Outcome State Fault Refusal :=
  prefixMark (fun c => { c with rep := some true, mix := c.mix || c.rep == some false }) s
/-- The last segment override takes effect (R312). -/
def execCsOverride (s : State) : Host.Outcome State Fault Refusal := prefixMark (fun c => { c with seg := some .cs }) s
def execSsOverride (s : State) : Host.Outcome State Fault Refusal := prefixMark (fun c => { c with seg := some .ss }) s
def execDsOverride (s : State) : Host.Outcome State Fault Refusal := prefixMark (fun c => { c with seg := some .ds }) s
def execEsOverride (s : State) : Host.Outcome State Fault Refusal := prefixMark (fun c => { c with seg := some .es }) s
def execFsOverride (s : State) : Host.Outcome State Fault Refusal := prefixMark (fun c => { c with seg := some .fs }) s
def execGsOverride (s : State) : Host.Outcome State Fault Refusal := prefixMark (fun c => { c with seg := some .gs }) s
def execOpSizeOverride (s : State) : Host.Outcome State Fault Refusal := prefixMark (fun c => { c with opsz := true }) s
def execAddrSizeOverride (s : State) : Host.Outcome State Fault Refusal := prefixMark (fun c => { c with adsz := true }) s

end Sys2Proof.Machine
end

