-- ==== Sys2Proof/Machine/Sse.lean ====
section
/-! DEFINITION. Floating point in XMM registers: SSE (46_sse), SSE2 (47_sse2_fp) and SSE3 (49_sse3). Tininess and
flush to zero: log 17. -/
namespace Sys2Proof.Machine

/-! ## MXCSR (10_state R104) -/

/-- MXCSR bits 12:7, at the places of their flags. -/
def sseMasks (mx : Word32) : Byte := (mx.extractLsb' 7 6).setWidth 8
def sseRc (mx : Word32) : BitVec 2 := mx.extractLsb' 13 2
def sseDaz (mx : Word32) : Bool := mx.getLsbD 6
def sseFz (mx : Word32) : Bool := mx.getLsbD 15

/-! ## One element (46 R1143 to R1149; 47 R1263, R1264) -/

/-- The outcome on one element: the flags found before and after the computation, and the value if masked. -/
structure SOut where
  pre : Byte
  post : Byte
  val : Nat
  deriving DecidableEq, Repr

def sExact (v : Nat) : SOut := { pre := 0, post := 0, val := v }

/-- A denormal source, unless DAZ reads it as zero. -/
def sDen (mx : Word32) (f : Fmt) (v : Nat) : Bool := fpCls f v == .denormal && !sseDaz mx

/-- A source as it is read: under DAZ a denormal is a zero of the same sign. -/
def sRead (mx : Word32) (f : Fmt) (v : Nat) : Nat :=
  if fpCls f v == .denormal && sseDaz mx then fpZero f (fpNeg f v) else v

def sVal (mx : Word32) (f : Fmt) (v : Nat) : Val := fpVal f (sRead mx f v)
def sNan (f : Fmt) (v : Nat) : Bool := fpCls f v == .snan || fpCls f v == .qnan

/-- Round to a format (46 R1143): an underflow under FZ is a zero of the same sign (log 17). -/
def sRound (mx : Word32) (f : Fmt) (v : Val) : SOut :=
  match v with
  | .zero n => sExact (fpZero f n)
  | .inf n => sExact (fpInf f n)
  | .fin x =>
    let o := f.round f.p (sseRc mx) (sseMasks mx) 0 x
    let flush := sseFz mx && o.flags &&& xUE != 0 && sseMasks mx &&& xUE != 0
    { pre := 0, post := o.flags, val := if flush then fpZero f x.neg else fpOf f x.neg o.val }

/-- The checks before an arithmetic operation (R1143, R1144): the first NaN operand is the result, quieted; a denormal source
is noted whatever else is found. -/
def sRun (mx : Word32) (f : Fmt) (args : List Nat) (op : Op) : SOut :=
  let d := flagIf (args.any (sDen mx f)) xDE
  match args.find? (sNan f) with
  | some v => { pre := d ||| flagIf (args.any fun a => fpCls f a == .snan) xIE, post := 0, val := fpQuiet f v }
  | none =>
    match op with
    | .invalid => { pre := d ||| xIE, post := 0, val := fpIndefinite f }
    | .zeroDiv n => { pre := d ||| xZE, post := 0, val := fpInf f n }
    | .val v => { sRound mx f v with pre := d }

/-- An element operation: MXCSR, format, destination element, source element. -/
abbrev SOp := Word32 → Fmt → Nat → Nat → SOut

def sAdd : SOp := fun mx f a b => sRun mx f [a, b] (opAdd (sseRc mx) (sVal mx f a) (sVal mx f b))
def sSub : SOp := fun mx f a b => sRun mx f [a, b] (opSub (sseRc mx) (sVal mx f a) (sVal mx f b))
def sMul : SOp := fun mx f a b => sRun mx f [a, b] (opMul (sVal mx f a) (sVal mx f b))
def sDiv : SOp := fun mx f a b => sRun mx f [a, b] (opDiv (sVal mx f a) (sVal mx f b))
/-- The destination's old value is no input (R1173). -/
def sSqrt : SOp := fun mx f _ b => sRun mx f [b] (opSqrt (sVal mx f b))

/-- R1145: the source when either is a NaN or both are zeros. A denormal source beside a NaN is returned as it is, under DAZ
too: R1145 says unchanged, R1143 reads it as zero (DESIGN CHOICE, log 17). -/
def sPick (greater : Bool) : SOp := fun mx f a b =>
  let d := flagIf (sDen mx f a || sDen mx f b) xDE
  if sNan f a || sNan f b then { pre := d ||| xIE, post := 0, val := b }
  else
    let (x, y) := (sRead mx f a, sRead mx f b)
    let o := valCmp (fpVal f x) (fpVal f y)
    { pre := d, post := 0
      val := if o == (if greater then .gt else .lt) then x else y }

def sMax : SOp := sPick true
def sMin : SOp := sPick false

/-- The order of two elements, none when unordered. -/
def sOrder (mx : Word32) (f : Fmt) (a b : Nat) : Option Ordering :=
  if sNan f a || sNan f b then none else some (valCmp (sVal mx f a) (sVal mx f b))

/-- The flags of a comparison; `quiet` says that a QNaN is no invalid operand. -/
def sCmpFlags (mx : Word32) (f : Fmt) (quiet : Bool) (a b : Nat) : Byte :=
  let has (c : Cls) : Bool := fpCls f a == c || fpCls f b == c
  flagIf (sDen mx f a || sDen mx f b) xDE ||| flagIf (has .snan || (has .qnan && !quiet)) xIE

/-- The predicates of R1146. -/
def sHolds (pred : BitVec 3) (o : Option Ordering) : Bool :=
  match pred.toNat with
  | 0 => o == some .eq
  | 1 => o == some .lt
  | 2 => o == some .lt || o == some .eq
  | 3 => o == none
  | 4 => o != some .eq
  | 5 => o != some .lt
  | 6 => !(o == some .lt || o == some .eq)
  | _ => o != none

/-- R1146: predicates 1, 2, 5 and 6 find a QNaN invalid; only imm8 bits 2:0 count (93 U21). -/
def sCmp (n : Byte) : SOp := fun mx f a b =>
  let pred : BitVec 3 := n.extractLsb' 0 3
  let quiet := !(pred == 1 || pred == 2 || pred == 5 || pred == 6)
  { pre := sCmpFlags mx f quiet a b, post := 0
    val := if sHolds pred (sOrder mx f a b) then 2 ^ (f.p + Nat.log2 (f.special + 1)) - 1 else 0 }

/-- To a doubleword integer (R1148). -/
def sToInt (mx : Word32) (rc : BitVec 2) (f : Fmt) (v : Nat) : SOut :=
  let bad : SOut := { pre := xIE, post := 0, val := 0x80000000 }
  if sNan f v then bad
  else match sVal mx f v with
    | .zero _ => sExact 0
    | .inf _ => bad
    | .fin x =>
      let (n, inexact, _) := x.toInteger rc
      if n < -0x80000000 ∨ 0x7FFFFFFF < n then bad
      else { pre := 0, post := flagIf inexact xPE, val := (BitVec.ofInt 32 n).toNat }

/-- From a doubleword integer (R1148, 47 R1264). -/
def sOfInt (mx : Word32) (f : Fmt) (v : Word32) : SOut := sRound mx f (exactOfInt v.toInt)

/-- Between the formats (47 R1264): from g to f. -/
def sConvert (mx : Word32) (g f : Fmt) (v : Nat) : SOut :=
  if sNan g v then { pre := flagIf (fpCls g v == .snan) xIE, post := 0, val := fpOfNan f g v }
  else { sRound mx f (sVal mx g v) with pre := flagIf (sDen mx g v) xDE }

/-- A denormal result is flushed to a zero of the same sign (R1149). -/
def sFlush (v : Nat) : Nat :=
  if fpCls .single v == .denormal then fpZero .single (fpNeg .single v) else v

/-- Whether lo * 2^-26 ≤ p ≤ hi * 2^-26. -/
def Exact.within (p : Exact) (lo hi : Nat) : Bool :=
  let at26 (n : Nat) : Option Exact := some { neg := false, mant := n, exp := -26 }
  exactCmp (at26 lo) (some p) != .gt && exactCmp (some p) (at26 hi) != .gt

/-- A finite nonzero single-precision number. -/
def sFinite (v : Nat) : Bool := fpCls .single v == .normal || fpCls .single v == .denormal

/-- The relative error of y as 1/x is at most 1.5 * 2^-12 = 3/2^13 (R1149): y x is from 1 - 3/2^13 to 1 + 3/2^13. -/
def rcpClose (x : Exact) (y : Nat) : Bool :=
  sFinite y && ((fpExact .single y).mul x).within (8189 * 2 ^ 13) (8195 * 2 ^ 13)

/-- The relative error of y as 1/sqrt x is at most 3/2^13 (R1149): y is positive, and y y x lies between the squares of
1 - 3/2^13 and 1 + 3/2^13. -/
def rsqrtClose (x : Exact) (y : Nat) : Bool :=
  let z := fpExact .single y
  sFinite y && !z.neg && ((z.mul z).mul x).within (8189 * 8189) (8195 * 8195)

/-- What an approximation gives: the value y that the open function has, if its error is in the bound of R1149 (`close`), else
z, the exact value, rounded to nearest. Any function within the bound is possible and none outside it (DESIGN CHOICE,
log 43). -/
def sApproximate (close : Bool) (y : Nat) (z : Exact) : Nat :=
  sFlush (if close then y else (sRound 0x1F80 .single (.fin z)).val)

/-- 1. -/
def Exact.one : Exact := { neg := false, mant := 1, exp := 0 }

/-- The reciprocal of a normal number, approximated (R1149, R1175). -/
def rcpNormal (v : Nat) : Nat :=
  let x := fpExact .single v
  let y := (Config.sseRcp (BitVec.ofNat 32 v)).toNat
  sApproximate (rcpClose x y) y (Exact.one.div x)

/-- The reciprocal of the square root of a positive normal number, approximated (R1149, R1177). -/
def rsqrtNormal (v : Nat) : Nat :=
  let x := fpExact .single v
  let y := (Config.sseRsqrt (BitVec.ofNat 32 v)).toNat
  sApproximate (rsqrtClose x y) y (Exact.one.div x.sqrt)

/-- R1149; never a flag. -/
def sRcp (v : Nat) : Nat :=
  let n := fpNeg .single v
  match fpCls .single v with
  | .zero => fpInf .single n
  | .denormal => fpInf .single n
  | .inf => fpZero .single n
  | .normal => rcpNormal v
  | _ => fpQuiet .single v

/-- R1149; never a flag. -/
def sRsqrt (v : Nat) : Nat :=
  let n := fpNeg .single v
  match fpCls .single v with
  | .zero => fpInf .single n
  | .denormal => fpInf .single n
  | .inf => if n then fpIndefinite .single else 0
  | .normal => if n then fpIndefinite .single else rsqrtNormal v
  | _ => fpQuiet .single v

/-! ## Flags and exceptions of a whole instruction (46 R1142, R1143) -/

def orFlags (l : List Byte) : Byte := l.foldr (· ||| ·) 0

/-- #XM, or #UD when CR4.OSXMMEXCPT = 0, with the flags found (R1142, R1143). -/
def sseRaise (flags : Byte) : M Unit := do
  let os ← ask fun s => s.cr4.getLsbD 10
  raise { vector := if os then 19 else 6, mxcsr := flags.setWidth 32 }

/-- Raise what is unmasked, else set the flags; answer the values. -/
def sseDo (outs : List SOut) : M (List Nat) := do
  let masks ← ask fun s => sseMasks s.mxcsr
  let pre := orFlags (outs.map (·.pre))
  let post := orFlags (outs.map (·.post))
  if pre &&& ~~~masks != 0 then sseRaise pre
  if post &&& ~~~masks != 0 then sseRaise (pre ||| post)
  update fun s => { s with mxcsr := s.mxcsr ||| (pre ||| post).setWidth 32 }
  return outs.map (·.val)

/-! ## Elements of a register -/

/-- The width of a format. -/
def Fmt.bits (f : Fmt) : Nat := f.p + Nat.log2 (f.special + 1)

/-- The elements as numbers, the first lowest. -/
def nums (w : Nat) {n : Nat} (v : BitVec n) : List Nat := (lanes w v).map (·.toNat)
def ofNums (w : Nat) (l : List Nat) : Word128 := ofLanes 128 (l.map (BitVec.ofNat w))

/-- The low w bits replaced. -/
def setLow (w : Nat) (v : Word128) (x : Nat) : Word128 := BitVec.ofNat 128 (v.toNat / 2 ^ w * 2 ^ w + x % 2 ^ w)

/-- The feature that a format's instructions need (R1141, 47 R1261). -/
def fmtHas (f : Fmt) : Bool := if f = .single then Config.hasSse else Config.hasSse2

/-- A packed operation on all elements. -/
def sPacked (f : Fmt) (op : SOp) (d : RegNum) (x : Rm) : M Unit := do
  sseUse (fmtHas f)
  let b ← readX x
  let a ← getXmm d
  let mx ← ask (·.mxcsr)
  let vals ← sseDo (List.zipWith (op mx f) (nums f.bits a) (nums f.bits b))
  putXmm d (ofNums f.bits vals)

/-- The low element of an operand. -/
def sScalarSrc (f : Fmt) (x : Rm) : M Nat := do return (← readXmmRm f.bits x).toNat

/-- A scalar operation on element 0. -/
def sScalar (f : Fmt) (op : SOp) (d : RegNum) (x : Rm) : M Unit := do
  sseUse (fmtHas f)
  let b ← sScalarSrc f x
  let a ← getXmm d
  let mx ← ask (·.mxcsr)
  let vals ← sseDo [op mx f (a.toNat % 2 ^ f.bits) b]
  putXmm d (setLow f.bits a (vals.headD 0))

/-- A comparison to EFLAGS (R1147). -/
def sCompare (f : Fmt) (quiet : Bool) (d : RegNum) (x : Rm) : M Unit := do
  sseUse (fmtHas f)
  let b ← sScalarSrc f x
  let a := (← getXmm d).toNat % 2 ^ f.bits
  let mx ← ask (·.mxcsr)
  let _ ← sseDo [{ pre := sCmpFlags mx f quiet a b, post := 0, val := 0 }]
  let o := sOrder mx f a b
  update (·.compareFlags (o == none || o == some .eq) (o == none) (o == none || o == some .lt))

/-- An approximation of all elements, or of element 0. -/
def sApprox (op : Nat → Nat) (d : RegNum) (x : Rm) : M Unit := xmmRun Config.hasSse (fun _ b => ofNums 32 ((nums 32 b).map op)) d x

def sApproxLow (op : Nat → Nat) (d : RegNum) (x : Rm) : M Unit := do
  sseUse Config.hasSse
  let b ← sScalarSrc .single x
  update fun s => s.setXmm d (setLow 32 (s.xmmReg d) (op b))

/-! ## Data movement (46 R1155 to R1162; 47 R1270 to R1275; 49 R1485 to R1488) -/

/-- A scalar move of w bits: between registers the rest is unchanged, a load clears it (R1157). -/
def xmmScalarMove (has : Bool) (w : Nat) (f : XMove) : M Unit := do
  sseUse has
  match f with
  | .load d (.reg r) => do
    let v ← getXmm r
    update fun s => s.setXmm d (setLow w (s.xmmReg d) v.toNat)
  | .load d (.mem m) => do
    let v : BitVec w ← readMem w m
    putXmm d (v.setWidth 128)
  | .store (.reg d) r => do
    let v ← getXmm r
    update fun s => s.setXmm d (setLow w (s.xmmReg d) v.toNat)
  | .store (.mem m) r => do
    let v ← getXmm r
    writeMem m (v.setWidth w)

/-- A move of one half between a register and memory (R1158, R1159). -/
def xmmHalfMove (has high : Bool) (f : XHalf) : M Unit := do
  sseUse has
  match f with
  | .load d m => do
    let v : Word64 ← readMem 64 m
    let a ← getXmm d
    putXmm d (if high then v ++ lane 64 a 0 else lane 64 a 1 ++ v)
  | .store m r => do
    let a ← getXmm r
    writeMem m (lane 64 a (if high then 1 else 0))

/-- R1155. -/
def execMovaps (f : XMove) (s : State) : Host.Outcome State Fault Refusal := runSimd (xmmMove Config.hasSse alignedAddrs f) s
/-- R1156. -/
def execMovups (f : XMove) (s : State) : Host.Outcome State Fault Refusal := runSimd (xmmMove Config.hasSse looseAddrs f) s
/-- R1270. -/
def execMovapd (f : XMove) (s : State) : Host.Outcome State Fault Refusal := runSimd (xmmMove Config.hasSse2 alignedAddrs f) s
/-- R1271. -/
def execMovupd (f : XMove) (s : State) : Host.Outcome State Fault Refusal := runSimd (xmmMove Config.hasSse2 looseAddrs f) s
/-- R1157. -/
def execMovss (f : XMove) (s : State) : Host.Outcome State Fault Refusal := runSimd (xmmScalarMove Config.hasSse 32 f) s
/-- R1272. -/
def execMovsd (f : XMove) (s : State) : Host.Outcome State Fault Refusal :=
  runSimd (xmmScalarMove Config.hasSse2 64 f) s
/-- R1158. -/
def execMovlps (f : XHalf) (s : State) : Host.Outcome State Fault Refusal :=
  runSimd (xmmHalfMove Config.hasSse false f) s
/-- R1159. -/
def execMovhps (f : XHalf) (s : State) : Host.Outcome State Fault Refusal :=
  runSimd (xmmHalfMove Config.hasSse true f) s
/-- R1273. -/
def execMovlpd (f : XHalf) (s : State) : Host.Outcome State Fault Refusal :=
  runSimd (xmmHalfMove Config.hasSse2 false f) s
/-- R1274. -/
def execMovhpd (f : XHalf) (s : State) : Host.Outcome State Fault Refusal :=
  runSimd (xmmHalfMove Config.hasSse2 true f) s
/-- R1160. -/
def execMovhlps (d r : RegNum) (s : State) : Host.Outcome State Fault Refusal :=
  runSimd (xmmRun Config.hasSse (fun a b => lane 64 a 1 ++ lane 64 b 1) d (.reg r)) s
/-- R1161. -/
def execMovlhps (d r : RegNum) (s : State) : Host.Outcome State Fault Refusal :=
  runSimd (xmmRun Config.hasSse (fun a b => lane 64 b 0 ++ lane 64 a 0) d (.reg r)) s

/-- The sign bits of the elements into a general register. -/
def movmsk (has : Bool) (w : Nat) (d r : RegNum) : M Unit := do
  sseUse has
  putReg .d d (signMask w (← getXmm r))

/-- R1162. -/
def execMovmskps (d r : RegNum) (s : State) : Host.Outcome State Fault Refusal := runSimd (movmsk Config.hasSse 32 d r) s
/-- R1275. -/
def execMovmskpd (d r : RegNum) (s : State) : Host.Outcome State Fault Refusal := runSimd (movmsk Config.hasSse2 64 d r) s
/-- R1485: no alignment rule, and no #AC (49 R1471). -/
def execLddqu (d : RegNum) (m : MemRef) (s : State) : Host.Outcome State Fault Refusal :=
  runSimd (xmmMove Config.hasSse3 (fun m write => memAddrs m 16 write) (.load d (.mem m))) s
/-- R1486. -/
def execMovddup (d : RegNum) (x : Rm) (s : State) : Host.Outcome State Fault Refusal :=
  runSimd (do
    sseUse Config.hasSse3
    let v : Word64 ← readXmmRm 64 x
    putXmm d (v ++ v)) s
/-- R1487. -/
def execMovshdup (d : RegNum) (x : Rm) (s : State) : Host.Outcome State Fault Refusal :=
  runSimd (xmmRun Config.hasSse3 (fun _ b => lane 32 b 3 ++ lane 32 b 3 ++ lane 32 b 1 ++ lane 32 b 1) d x) s
/-- R1488. -/
def execMovsldup (d : RegNum) (x : Rm) (s : State) : Host.Outcome State Fault Refusal :=
  runSimd (xmmRun Config.hasSse3 (fun _ b => lane 32 b 2 ++ lane 32 b 2 ++ lane 32 b 0 ++ lane 32 b 0) d x) s

/-! ## Arithmetic (46 R1165 to R1182; 47 R1280 to R1293) -/

/-- R1165. -/
def execAddps (d : RegNum) (x : Rm) (s : State) : Host.Outcome State Fault Refusal :=
  runSimd (sPacked .single sAdd d x) s
/-- R1166. -/
def execAddss (d : RegNum) (x : Rm) (s : State) : Host.Outcome State Fault Refusal :=
  runSimd (sScalar .single sAdd d x) s
/-- R1280. -/
def execAddpd (d : RegNum) (x : Rm) (s : State) : Host.Outcome State Fault Refusal :=
  runSimd (sPacked .double sAdd d x) s
/-- R1281. -/
def execAddsd (d : RegNum) (x : Rm) (s : State) : Host.Outcome State Fault Refusal :=
  runSimd (sScalar .double sAdd d x) s
/-- R1167. -/
def execSubps (d : RegNum) (x : Rm) (s : State) : Host.Outcome State Fault Refusal :=
  runSimd (sPacked .single sSub d x) s
/-- R1168. -/
def execSubss (d : RegNum) (x : Rm) (s : State) : Host.Outcome State Fault Refusal :=
  runSimd (sScalar .single sSub d x) s
/-- R1282. -/
def execSubpd (d : RegNum) (x : Rm) (s : State) : Host.Outcome State Fault Refusal :=
  runSimd (sPacked .double sSub d x) s
/-- R1283. -/
def execSubsd (d : RegNum) (x : Rm) (s : State) : Host.Outcome State Fault Refusal :=
  runSimd (sScalar .double sSub d x) s
/-- R1169. -/
def execMulps (d : RegNum) (x : Rm) (s : State) : Host.Outcome State Fault Refusal :=
  runSimd (sPacked .single sMul d x) s
/-- R1170. -/
def execMulss (d : RegNum) (x : Rm) (s : State) : Host.Outcome State Fault Refusal :=
  runSimd (sScalar .single sMul d x) s
/-- R1284. -/
def execMulpd (d : RegNum) (x : Rm) (s : State) : Host.Outcome State Fault Refusal :=
  runSimd (sPacked .double sMul d x) s
/-- R1285. -/
def execMulsd (d : RegNum) (x : Rm) (s : State) : Host.Outcome State Fault Refusal :=
  runSimd (sScalar .double sMul d x) s
/-- R1171. -/
def execDivps (d : RegNum) (x : Rm) (s : State) : Host.Outcome State Fault Refusal :=
  runSimd (sPacked .single sDiv d x) s
/-- R1172. -/
def execDivss (d : RegNum) (x : Rm) (s : State) : Host.Outcome State Fault Refusal :=
  runSimd (sScalar .single sDiv d x) s
/-- R1286. -/
def execDivpd (d : RegNum) (x : Rm) (s : State) : Host.Outcome State Fault Refusal :=
  runSimd (sPacked .double sDiv d x) s
/-- R1287. -/
def execDivsd (d : RegNum) (x : Rm) (s : State) : Host.Outcome State Fault Refusal :=
  runSimd (sScalar .double sDiv d x) s
/-- R1173. -/
def execSqrtps (d : RegNum) (x : Rm) (s : State) : Host.Outcome State Fault Refusal :=
  runSimd (sPacked .single sSqrt d x) s
/-- R1174. -/
def execSqrtss (d : RegNum) (x : Rm) (s : State) : Host.Outcome State Fault Refusal :=
  runSimd (sScalar .single sSqrt d x) s
/-- R1288. -/
def execSqrtpd (d : RegNum) (x : Rm) (s : State) : Host.Outcome State Fault Refusal :=
  runSimd (sPacked .double sSqrt d x) s
/-- R1289. -/
def execSqrtsd (d : RegNum) (x : Rm) (s : State) : Host.Outcome State Fault Refusal :=
  runSimd (sScalar .double sSqrt d x) s
/-- R1179. -/
def execMaxps (d : RegNum) (x : Rm) (s : State) : Host.Outcome State Fault Refusal :=
  runSimd (sPacked .single sMax d x) s
/-- R1180. -/
def execMaxss (d : RegNum) (x : Rm) (s : State) : Host.Outcome State Fault Refusal :=
  runSimd (sScalar .single sMax d x) s
/-- R1290. -/
def execMaxpd (d : RegNum) (x : Rm) (s : State) : Host.Outcome State Fault Refusal :=
  runSimd (sPacked .double sMax d x) s
/-- R1291. -/
def execMaxsd (d : RegNum) (x : Rm) (s : State) : Host.Outcome State Fault Refusal :=
  runSimd (sScalar .double sMax d x) s
/-- R1181. -/
def execMinps (d : RegNum) (x : Rm) (s : State) : Host.Outcome State Fault Refusal :=
  runSimd (sPacked .single sMin d x) s
/-- R1182. -/
def execMinss (d : RegNum) (x : Rm) (s : State) : Host.Outcome State Fault Refusal :=
  runSimd (sScalar .single sMin d x) s
/-- R1292. -/
def execMinpd (d : RegNum) (x : Rm) (s : State) : Host.Outcome State Fault Refusal :=
  runSimd (sPacked .double sMin d x) s
/-- R1293. -/
def execMinsd (d : RegNum) (x : Rm) (s : State) : Host.Outcome State Fault Refusal :=
  runSimd (sScalar .double sMin d x) s
/-- R1175. -/
def execRcpps (d : RegNum) (x : Rm) (s : State) : Host.Outcome State Fault Refusal :=
  runSimd (sApprox sRcp d x) s
/-- R1176. -/
def execRcpss (d : RegNum) (x : Rm) (s : State) : Host.Outcome State Fault Refusal :=
  runSimd (sApproxLow sRcp d x) s
/-- R1177. -/
def execRsqrtps (d : RegNum) (x : Rm) (s : State) : Host.Outcome State Fault Refusal :=
  runSimd (sApprox sRsqrt d x) s
/-- R1178. -/
def execRsqrtss (d : RegNum) (x : Rm) (s : State) : Host.Outcome State Fault Refusal :=
  runSimd (sApproxLow sRsqrt d x) s

/-! ### Alternating and horizontal forms (49 R1475 to R1480) -/

/-- Subtract in the even elements, add in the odd ones. -/
def addSub (f : Fmt) (d : RegNum) (x : Rm) : M Unit := do
  sseUse Config.hasSse3
  let b ← readX x
  let a ← getXmm d
  let mx ← ask (·.mxcsr)
  let pairs := List.zipWith (fun i p => (if i % 2 = 0 then sSub else sAdd) mx f p.1 p.2)
    (List.range (128 / f.bits)) ((nums f.bits a).zip (nums f.bits b))
  putXmm d (ofNums f.bits (← sseDo pairs))

/-- An operation on neighbours of a list. The lower of a pair stands first, as the destination does in 46 R1144, so that of
two NaNs the lower one is returned, of which 49 R1477 to R1480 do not speak (DESIGN CHOICE, log 17). -/
def neighbours (op : Nat → Nat → SOut) : List Nat → List SOut
  | a :: b :: rest => op a b :: neighbours op rest
  | _ => []

/-- Pairs of the destination, then pairs of the source. -/
def horizontal (f : Fmt) (op : SOp) (d : RegNum) (x : Rm) : M Unit := do
  sseUse Config.hasSse3
  let b ← readX x
  let a ← getXmm d
  let mx ← ask (·.mxcsr)
  putXmm d (ofNums f.bits (← sseDo (neighbours (op mx f) (nums f.bits a ++ nums f.bits b))))

/-- R1475. -/
def execAddsubpd (d : RegNum) (x : Rm) (s : State) : Host.Outcome State Fault Refusal :=
  runSimd (addSub .double d x) s
/-- R1476. -/
def execAddsubps (d : RegNum) (x : Rm) (s : State) : Host.Outcome State Fault Refusal :=
  runSimd (addSub .single d x) s
/-- R1477. -/
def execHaddpd (d : RegNum) (x : Rm) (s : State) : Host.Outcome State Fault Refusal :=
  runSimd (horizontal .double sAdd d x) s
/-- R1478. -/
def execHaddps (d : RegNum) (x : Rm) (s : State) : Host.Outcome State Fault Refusal :=
  runSimd (horizontal .single sAdd d x) s
/-- R1479. -/
def execHsubpd (d : RegNum) (x : Rm) (s : State) : Host.Outcome State Fault Refusal :=
  runSimd (horizontal .double sSub d x) s
/-- R1480. -/
def execHsubps (d : RegNum) (x : Rm) (s : State) : Host.Outcome State Fault Refusal :=
  runSimd (horizontal .single sSub d x) s

/-! ## Logical, shuffle and unpack (46 R1185 to R1195; 47 R1300 to R1310) -/

/-- R1185. -/
def execAndps (d : RegNum) (x : Rm) (s : State) : Host.Outcome State Fault Refusal :=
  runSimd (xmmRun Config.hasSse (fun a b => a &&& b) d x) s
/-- R1300. -/
def execAndpd (d : RegNum) (x : Rm) (s : State) : Host.Outcome State Fault Refusal :=
  runSimd (xmmRun Config.hasSse2 (fun a b => a &&& b) d x) s
/-- R1186. -/
def execAndnps (d : RegNum) (x : Rm) (s : State) : Host.Outcome State Fault Refusal :=
  runSimd (xmmRun Config.hasSse (fun a b => ~~~a &&& b) d x) s
/-- R1301. -/
def execAndnpd (d : RegNum) (x : Rm) (s : State) : Host.Outcome State Fault Refusal :=
  runSimd (xmmRun Config.hasSse2 (fun a b => ~~~a &&& b) d x) s
/-- R1187. -/
def execOrps (d : RegNum) (x : Rm) (s : State) : Host.Outcome State Fault Refusal :=
  runSimd (xmmRun Config.hasSse (fun a b => a ||| b) d x) s
/-- R1302. -/
def execOrpd (d : RegNum) (x : Rm) (s : State) : Host.Outcome State Fault Refusal :=
  runSimd (xmmRun Config.hasSse2 (fun a b => a ||| b) d x) s
/-- R1188. -/
def execXorps (d : RegNum) (x : Rm) (s : State) : Host.Outcome State Fault Refusal :=
  runSimd (xmmRun Config.hasSse (fun a b => a ^^^ b) d x) s
/-- R1303. -/
def execXorpd (d : RegNum) (x : Rm) (s : State) : Host.Outcome State Fault Refusal :=
  runSimd (xmmRun Config.hasSse2 (fun a b => a ^^^ b) d x) s
/-- R1194. -/
def execUnpckhps (d : RegNum) (x : Rm) (s : State) : Host.Outcome State Fault Refusal :=
  runSimd (xmmRun Config.hasSse (unpack 32 true 128) d x) s
/-- R1309. -/
def execUnpckhpd (d : RegNum) (x : Rm) (s : State) : Host.Outcome State Fault Refusal :=
  runSimd (xmmRun Config.hasSse2 (unpack 64 true 128) d x) s
/-- R1195. -/
def execUnpcklps (d : RegNum) (x : Rm) (s : State) : Host.Outcome State Fault Refusal :=
  runSimd (xmmRun Config.hasSse (unpack 32 false 128) d x) s
/-- R1310. -/
def execUnpcklpd (d : RegNum) (x : Rm) (s : State) : Host.Outcome State Fault Refusal :=
  runSimd (xmmRun Config.hasSse2 (unpack 64 false 128) d x) s
/-- R1193. -/
def execShufps (d : RegNum) (x : Rm) (n : Byte) (s : State) : Host.Outcome State Fault Refusal :=
  runSimd (xmmRun Config.hasSse
    (fun a b => lane 32 b (sel2 n 3) ++ lane 32 b (sel2 n 2) ++ lane 32 a (sel2 n 1) ++ lane 32 a (sel2 n 0)) d x) s
/-- R1308. -/
def execShufpd (d : RegNum) (x : Rm) (n : Byte) (s : State) : Host.Outcome State Fault Refusal :=
  runSimd (xmmRun Config.hasSse2
    (fun a b => lane 64 b (n.getLsbD 1).toNat ++ lane 64 a (n.getLsbD 0).toNat) d x) s

/-! ## Comparisons (46 R1189 to R1192; 47 R1304 to R1307) -/

/-- R1189. -/
def execCmpps (d : RegNum) (x : Rm) (n : Byte) (s : State) : Host.Outcome State Fault Refusal :=
  runSimd (sPacked .single (sCmp n) d x) s
/-- R1190. -/
def execCmpss (d : RegNum) (x : Rm) (n : Byte) (s : State) : Host.Outcome State Fault Refusal :=
  runSimd (sScalar .single (sCmp n) d x) s
/-- R1304. -/
def execCmppd (d : RegNum) (x : Rm) (n : Byte) (s : State) : Host.Outcome State Fault Refusal :=
  runSimd (sPacked .double (sCmp n) d x) s
/-- R1305. -/
def execCmpsd (d : RegNum) (x : Rm) (n : Byte) (s : State) : Host.Outcome State Fault Refusal :=
  runSimd (sScalar .double (sCmp n) d x) s
/-- R1191. -/
def execComiss (d : RegNum) (x : Rm) (s : State) : Host.Outcome State Fault Refusal :=
  runSimd (sCompare .single false d x) s
/-- R1192. -/
def execUcomiss (d : RegNum) (x : Rm) (s : State) : Host.Outcome State Fault Refusal :=
  runSimd (sCompare .single true d x) s
/-- R1306. -/
def execComisd (d : RegNum) (x : Rm) (s : State) : Host.Outcome State Fault Refusal :=
  runSimd (sCompare .double false d x) s
/-- R1307. -/
def execUcomisd (d : RegNum) (x : Rm) (s : State) : Host.Outcome State Fault Refusal :=
  runSimd (sCompare .double true d x) s

/-! ## Conversions (46 R1196 to R1201; 47 R1320 to R1335) -/

/-- From two doublewords of an MMX register or memory; only the register form is an MMX instruction (R1150, 47 R1265). -/
def fromPi (f : Fmt) (d : RegNum) (x : Rm) : M Unit := do
  sseUse (fmtHas f)
  if let .reg _ := x then xPending
  let v ← readMmRm x
  let mx ← ask (·.mxcsr)
  let vals ← sseDo ((lanes 32 v).map (sOfInt mx f))
  update fun s => s.setXmm d (setLow (2 * f.bits) (s.xmmReg d) (ofNums f.bits vals).toNat)
  if let .reg _ := x then mmxDone

/-- To two doublewords of an MMX register; the double source is 16 bytes (47 R1321). A pending x87 exception (#MF) comes
before the checks of a memory source, the order 45 R1062 has for MMX instructions, where 46 R1150 and 47 R1265 give none
(DESIGN CHOICE, log 17). -/
def toPi (f : Fmt) (truncate : Bool) (d : RegNum) (x : Rm) : M Unit := do
  sseUse (fmtHas f)
  xPending
  let v : Word128 ← if f = .single then do pure ((← readXmmRm 64 x).setWidth 128) else readX x
  let mx ← ask (·.mxcsr)
  let vals ← sseDo (((nums f.bits v).take 2).map (sToInt mx (if truncate then 3 else sseRc mx) f))
  putMm d ((ofNums 32 vals).setWidth 64)
  mmxDone

/-- From a doubleword of a general register or memory. -/
def fromSi (f : Fmt) (d : RegNum) (x : Rm) : M Unit := do
  sseUse (fmtHas f)
  let v ← readRm .d x
  let mx ← ask (·.mxcsr)
  let vals ← sseDo [sOfInt mx f v]
  update fun s => s.setXmm d (setLow f.bits (s.xmmReg d) (vals.headD 0))

/-- To a general register. -/
def toSi (f : Fmt) (truncate : Bool) (d : RegNum) (x : Rm) : M Unit := do
  sseUse (fmtHas f)
  let v ← sScalarSrc f x
  let mx ← ask (·.mxcsr)
  let vals ← sseDo [sToInt mx (if truncate then 3 else sseRc mx) f v]
  putReg .d d (BitVec.ofNat 32 (vals.headD 0))

/-- Between the formats, element 0. -/
def convertLow (g f : Fmt) (d : RegNum) (x : Rm) : M Unit := do
  sseUse Config.hasSse2
  let v ← sScalarSrc g x
  let mx ← ask (·.mxcsr)
  let vals ← sseDo [sConvert mx g f v]
  update fun s => s.setXmm d (setLow f.bits (s.xmmReg d) (vals.headD 0))

/-- A conversion of the elements of v: w bits each in the result, the rest of the register cleared. -/
def convertAll (w : Nat) (d : RegNum) (outs : List SOut) : M Unit := do putXmm d (ofNums w (← sseDo outs))

/-- A packed conversion from 16 bytes. -/
def convertX (g : Nat) (w : Nat) (op : Word32 → Nat → SOut) (d : RegNum) (x : Rm) : M Unit := do
  sseUse Config.hasSse2
  let v ← readX x
  let mx ← ask (·.mxcsr)
  convertAll w d ((nums g v).map (op mx))

/-- A packed conversion from 8 bytes. -/
def convertHalf (op : Word32 → Nat → SOut) (d : RegNum) (x : Rm) : M Unit := do
  sseUse Config.hasSse2
  let v : Word64 ← readXmmRm 64 x
  let mx ← ask (·.mxcsr)
  convertAll 64 d ((nums 32 v).map (op mx))

/-- R1196. -/
def execCvtpi2ps (d : RegNum) (x : Rm) (s : State) : Host.Outcome State Fault Refusal :=
  runSimd (fromPi .single d x) s
/-- R1197. -/
def execCvtps2pi (d : RegNum) (x : Rm) (s : State) : Host.Outcome State Fault Refusal :=
  runSimd (toPi .single false d x) s
/-- R1198. -/
def execCvttps2pi (d : RegNum) (x : Rm) (s : State) : Host.Outcome State Fault Refusal :=
  runSimd (toPi .single true d x) s
/-- R1199. -/
def execCvtsi2ss (d : RegNum) (x : Rm) (s : State) : Host.Outcome State Fault Refusal :=
  runSimd (fromSi .single d x) s
/-- R1200. -/
def execCvtss2si (d : RegNum) (x : Rm) (s : State) : Host.Outcome State Fault Refusal :=
  runSimd (toSi .single false d x) s
/-- R1201. -/
def execCvttss2si (d : RegNum) (x : Rm) (s : State) : Host.Outcome State Fault Refusal :=
  runSimd (toSi .single true d x) s
/-- R1320. -/
def execCvtpi2pd (d : RegNum) (x : Rm) (s : State) : Host.Outcome State Fault Refusal :=
  runSimd (fromPi .double d x) s
/-- R1321. -/
def execCvtpd2pi (d : RegNum) (x : Rm) (s : State) : Host.Outcome State Fault Refusal :=
  runSimd (toPi .double false d x) s
/-- R1322. -/
def execCvttpd2pi (d : RegNum) (x : Rm) (s : State) : Host.Outcome State Fault Refusal :=
  runSimd (toPi .double true d x) s
/-- R1323. -/
def execCvtsi2sd (d : RegNum) (x : Rm) (s : State) : Host.Outcome State Fault Refusal :=
  runSimd (fromSi .double d x) s
/-- R1324. -/
def execCvtsd2si (d : RegNum) (x : Rm) (s : State) : Host.Outcome State Fault Refusal :=
  runSimd (toSi .double false d x) s
/-- R1325. -/
def execCvttsd2si (d : RegNum) (x : Rm) (s : State) : Host.Outcome State Fault Refusal :=
  runSimd (toSi .double true d x) s
/-- R1326. -/
def execCvtpd2ps (d : RegNum) (x : Rm) (s : State) : Host.Outcome State Fault Refusal :=
  runSimd (convertX 64 32 (fun mx => sConvert mx .double .single) d x) s
/-- R1327. -/
def execCvtps2pd (d : RegNum) (x : Rm) (s : State) : Host.Outcome State Fault Refusal :=
  runSimd (convertHalf (fun mx => sConvert mx .single .double) d x) s
/-- R1328. -/
def execCvtsd2ss (d : RegNum) (x : Rm) (s : State) : Host.Outcome State Fault Refusal :=
  runSimd (convertLow .double .single d x) s
/-- R1329. -/
def execCvtss2sd (d : RegNum) (x : Rm) (s : State) : Host.Outcome State Fault Refusal :=
  runSimd (convertLow .single .double d x) s
/-- R1330. -/
def execCvtpd2dq (d : RegNum) (x : Rm) (s : State) : Host.Outcome State Fault Refusal :=
  runSimd (convertX 64 32 (fun mx => sToInt mx (sseRc mx) .double) d x) s
/-- R1331. -/
def execCvttpd2dq (d : RegNum) (x : Rm) (s : State) : Host.Outcome State Fault Refusal :=
  runSimd (convertX 64 32 (fun mx => sToInt mx 3 .double) d x) s
/-- R1332. -/
def execCvtdq2pd (d : RegNum) (x : Rm) (s : State) : Host.Outcome State Fault Refusal :=
  runSimd (convertHalf (fun mx v => sOfInt mx .double (BitVec.ofNat 32 v)) d x) s
/-- R1333. -/
def execCvtps2dq (d : RegNum) (x : Rm) (s : State) : Host.Outcome State Fault Refusal :=
  runSimd (convertX 32 32 (fun mx => sToInt mx (sseRc mx) .single) d x) s
/-- R1334. -/
def execCvttps2dq (d : RegNum) (x : Rm) (s : State) : Host.Outcome State Fault Refusal :=
  runSimd (convertX 32 32 (fun mx => sToInt mx 3 .single) d x) s
/-- R1335. -/
def execCvtdq2ps (d : RegNum) (x : Rm) (s : State) : Host.Outcome State Fault Refusal :=
  runSimd (convertX 32 32 (fun mx v => sOfInt mx .single (BitVec.ofNat 32 v)) d x) s

/-! ## MXCSR (46 R1202, R1203) -/

/-- R1202: a reserved bit is #GP(0). -/
def execLdmxcsr (m : MemRef) (s : State) : Host.Outcome State Fault Refusal :=
  runSimd (do
    sseUse Config.hasSse
    let v : Word32 ← readMem 32 m
    if v &&& ~~~Config.mxcsrMask != 0 then raiseGP 0
    update fun s => { s with mxcsr := v }) s
/-- R1203. -/
def execStmxcsr (m : MemRef) (s : State) : Host.Outcome State Fault Refusal :=
  runSimd (do
    sseUse Config.hasSse
    writeMem m s.mxcsr) s

end Sys2Proof.Machine
end

