-- ==== Sys2Proof/Machine/Msr.lean ====
section
/-! DEFINITION. The model-specific registers (10_state R110 to R139): what RDMSR reads and WRMSR writes, and the
microcode-update trigger (70 R1730, R1731). -/
namespace Sys2Proof.Machine

/-- The value at a list position. -/
def nth {α : Type} (l : List α) (i : Nat) (d : α) : α := (l[i]?).getD d

/-- Replace the value at a list position. -/
def setNth {α : Type} (l : List α) (i : Nat) (v : α) : List α := l.set i v

/-- The addresses of the ESCRs of R128; MSR_IQ_ESCR0 and 1 exist where HAS_IQ_ESCR says so. -/
def escrAddresses : List Nat :=
  [0x3B8, 0x3B9, 0x3BC, 0x3BD, 0x3BE, 0x3CA, 0x3CB, 0x3CC, 0x3CD, 0x3E0, 0x3E1]
    ++ if Config.hasIqEscr then [0x3BA, 0x3BB] else []

/-- The position of an ESCR, if the MSR exists. -/
def escrIndex (m : Nat) : Option Nat := escrAddresses.idxOf? m

/-- A register of the last-branch stack: the entry, and which of its halves. -/
inductive LbrReg where
  | both (i : Nat) | source (i : Nat) | target (i : Nat)
  deriving DecidableEq, Repr

/-- The last-branch register at an address: four of 64 bits on models 0 to 2 (R124), else two times sixteen (R125). -/
def lbrReg (m : Nat) : Option LbrReg :=
  if Config.lbrDepth = 4 then (if 0x1DB ≤ m ∧ m ≤ 0x1DE then some (.both (m - 0x1DB)) else none)
  else if 0x680 ≤ m ∧ m ≤ 0x68F then some (.source (m - 0x680))
  else if 0x6C0 ≤ m ∧ m ≤ 0x6CF then some (.target (m - 0x6C0))
  else none

def Msrs.branch (r : Msrs) (i : Nat) : BranchRecord := nth r.lbr i { source := 0, target := 0 }

def Msrs.readLbr (r : Msrs) : LbrReg → Word64
  | .both i => (r.branch i).target ++ (r.branch i).source
  | .source i => (r.branch i).source.setWidth 64
  | .target i => (r.branch i).target.setWidth 64

def Msrs.writeLbr (r : Msrs) (l : LbrReg) (v : Word64) : Msrs :=
  let low : Word32 := v.extractLsb' 0 32
  match l with
  | .both i => { r with lbr := r.lbr.modify i fun _ => { source := low, target := v.extractLsb' 32 32 } }
  | .source i => { r with lbr := r.lbr.modify i fun e => { e with source := low } }
  | .target i => { r with lbr := r.lbr.modify i fun e => { e with target := low } }

/-- The fields of IA32_MCi_STATUS that the table of its error code marks Reserved: an internal watchdog timer error
(R136), an external bus error (R137), a memory hierarchy error (R138). The spec has no table for another code; the bits
that all three mark, 25:24, 31:28 and 56:40, are reserved there (log 15). -/
def mciReserved (v : Word64) : Word64 :=
  let code : Word16 := v.extractLsb' 0 16
  let bit20 : Word64 := if Config.signature = 0x00000F04 then 0 else 0x00100000
  if code = 0x0400 then 0x01FFFFFFF3FF0000
  else if code >>> 11 = 1 then 0x01FFFFFFFF000000 ||| bit20
  else if code >>> 8 = 1 then 0x01FFFF00FFC00000
  else 0x01FFFF00F3000000

/-- The registers of the machine-check banks (log 15). -/
def mciIndex (m : Nat) : Option Nat := if 0x401 ≤ m ∧ m ≤ 0x40D ∧ m % 4 = 1 then some ((m - 0x401) / 4) else none

/-- The time-stamp counter as read: any value not below the last (92 D14, log 20). -/
def readTsc : M Word64 := do
  let d : Word64 ← free 64
  let old ← ask (·.msr.tsc)
  let new := BitVec.ofNat 64 (min (old.toNat + d.toNat) (2 ^ 64 - 1))
  update fun s => { s with msr := { s.msr with tsc := new } }
  return new

/-- Performance counter 12 + i as read: any value not below the last (R129, log 20). -/
def readCounter (i : Nat) : M (BitVec 40) := do
  let d : BitVec 40 ← free 40
  let old ← ask fun s => nth s.msr.iqCounter i 0
  let new := BitVec.ofNat 40 (min (old.toNat + d.toNat) (2 ^ 40 - 1))
  update fun s => { s with msr := { s.msr with iqCounter := setNth s.msr.iqCounter i new } }
  return new

def updateMsr (f : Msrs → Msrs) : M Unit := update fun s => { s with msr := f s.msr }

/-- RDMSR's value; a register that is absent or cannot be read is #GP(0) (R110, R113). -/
def readMsr (m : Nat) : M Word64 := do
  let r ← ask (·.msr)
  if m = 0x10 then readTsc
  else if m = 0x17 then return Config.platformId.setWidth 64 <<< 50
  else if m = 0x8B then return r.biosSignId
  else if m = 0xFE then refuse .mtrrCap
  else if m = 0x174 then return r.sysenterCs
  else if m = 0x175 then return r.sysenterEsp
  else if m = 0x176 then return r.sysenterEip
  else if m = 0x19A then return r.clockModulation
  else if m = 0x19C then return r.thermStatus
  else if m = 0x1A0 then return r.miscEnable
  else if m = 0x1D9 then return r.debugCtl
  else if m = 0x1DA then return r.lbrTos.setWidth 64
  else if 0x30C ≤ m ∧ m ≤ 0x311 then return (← readCounter (m - 0x30C)).setWidth 64
  else if 0x36C ≤ m ∧ m ≤ 0x371 then return nth r.iqCccr (m - 0x36C) 0
  else match mciIndex m, lbrReg m, escrIndex m with
    | some i, _, _ => return nth r.mciStatus i 0 &&& ~~~mciReserved (nth r.mciStatus i 0)
    | none, some l, _ => return r.readLbr l
    | none, none, some i => return nth r.escr i 0
    | none, none, none => raiseGP 0

/-! The microcode update (70 R1712 to R1731). -/

/-- The doubleword at byte offset `off` of the update whose header lies at a linear address. -/
def ucodeField (base : Word32) (off : Nat) : M Nat := sysRead (base + BitVec.ofNat 32 off) 4

def ucodeDataSize (dataField : Nat) : Nat := if dataField = 0 then 2000 else dataField
def ucodeTotalSize (dataField totalField : Nat) : Nat := if dataField = 0 then 2048 else totalField

/-- The processor flags paired with the first extended signature that is this processor's (R1720, R1722): entries `n`
to `n + k - 1`. -/
def ucodeExtFlags (base : Word32) (dataSize n : Nat) : Nat → M (Option Nat)
  | 0 => return none
  | k + 1 => do
    if (← ucodeField base (dataSize + 68 + 12 * n)) = Config.signature.toNat then
      return some (← ucodeField base (dataSize + 72 + 12 * n))
    else ucodeExtFlags base dataSize (n + 1) k

/-- The flags paired with the matching signature, the header's first (R1720, R1722). -/
def ucodeFlags (base : Word32) : M (Option Nat) := do
  if (← ucodeField base 12) = Config.signature.toNat then return some (← ucodeField base 24)
  let dataField ← ucodeField base 28
  let dataSize := ucodeDataSize dataField
  if ucodeTotalSize dataField (← ucodeField base 32) ≤ dataSize + 48 then return none
  ucodeExtFlags base dataSize 0 (← ucodeField base (dataSize + 48))

/-- The whole image, for the authenticity check. -/
def ucodeImage (base : Word32) : M (List Byte) := do
  let dataField ← ucodeField base 28
  let addrs ← translateRange base (ucodeTotalSize dataField (← ucodeField base 32)) false false
  ask fun s => addrs.map (physRead8 s)

/-- The load WRMSR 79H triggers (R1731): a rejected image changes nothing. -/
def ucodeLoad (eax edx : Word32) : M Unit := do
  if edx != 0 || eax.extractLsb' 0 4 != 0 then refuse .ucodeTrigger
  let base := eax - 48
  let _ ← sysRead base 48
  if (← ucodeField base 0) = 1 ∧ (← ucodeField base 20) = 1 then
    match ← ucodeFlags base with
    | none => return ()
    | some flags =>
      if flags.testBit Config.platformId.toNat then
        if Config.ucodeAuthentic (← ucodeImage base) then
          let revision := BitVec.ofNat 32 (← ucodeField base 4)
          update fun s => { s with ucode := { loaded := true, revision } }

/-- Writing 1 to a reserved bit is #GP(0) (R110, 93 U39). -/
def noReserved (v mask : Word64) : M Unit := if v &&& mask != 0 then raiseGP 0 else return ()

/-- WRMSR's effect; absent and read-only registers are #GP(0) (R110, 43 R833). The read-only bit 0 of the thermal status may
be written with either value and keeps its own, and a 1 written to the log bit, bit 1, leaves that bit as it is (R119 gives
no outcome for either: DESIGN CHOICE, log 14). -/
def writeMsr (m : Nat) (v : Word64) : M Unit := do
  if m = 0x10 then updateMsr fun r => { r with tsc := v }
  else if m = 0x79 then ucodeLoad (v.extractLsb' 0 32) (v.extractLsb' 32 32)
  else if m = 0x8B then
    noReserved v 0x00000000FFFFFFFF
    updateMsr fun r => { r with biosSignId := v }
  else if m = 0xFE then refuse .mtrrCap
  else if m = 0x174 then updateMsr fun r => { r with sysenterCs := v }
  else if m = 0x175 then updateMsr fun r => { r with sysenterEsp := v }
  else if m = 0x176 then updateMsr fun r => { r with sysenterEip := v }
  else if m = 0x19A then updateMsr fun r => { r with clockModulation := v }
  else if m = 0x19C then
    noReserved v 0xFFFFFFFFFFFFFFFC
    updateMsr fun r => { r with thermStatus := if v.getLsbD 1 then r.thermStatus else setBit r.thermStatus 1 false }
  else if m = 0x1A0 then updateMsr fun r => { r with miscEnable := v }
  else if m = 0x1D9 then updateMsr fun r => { r with debugCtl := v }
  else if 0x30C ≤ m ∧ m ≤ 0x311 then
    updateMsr fun r => { r with iqCounter := setNth r.iqCounter (m - 0x30C) (v.setWidth 40) }
  else if 0x36C ≤ m ∧ m ≤ 0x371 then updateMsr fun r => { r with iqCccr := setNth r.iqCccr (m - 0x36C) v }
  else match mciIndex m, lbrReg m, escrIndex m with
    | some i, _, _ => do
      noReserved v (mciReserved v)
      updateMsr fun r => { r with mciStatus := setNth r.mciStatus i v }
    | none, some l, _ => do
      if Config.lbrDepth ≠ 4 then noReserved v 0xFFFFFFFF00000000
      updateMsr (·.writeLbr l v)
    | none, none, some i => updateMsr fun r => { r with escr := setNth r.escr i v }
    | none, none, none => raiseGP 0

end Sys2Proof.Machine
end

