-- ==== Sys2Proof/Machine/System.lean ====
section
/-! DEFINITION. System instructions (43_system). -/
namespace Sys2Proof.Machine

/-- Privileged: #GP(0) above privilege level 0 (R800). -/
def privileged : M Unit := do
  if ← ask fun s => s.pe && s.cpl != 0 then raiseGP 0

/-- Protected-mode only: #UD in real-address mode (R800). -/
def protectedOnly : M Unit := do
  if !(← ask State.pe) then raiseUD

/-! ## Control, debug and test registers (R810 to R812) -/

def State.readCr (s : State) (n : RegNum) : Option Word32 :=
  match n.toNat with
  | 0 => some s.cr0 | 2 => some s.cr2 | 3 => some s.cr3 | 4 => some s.cr4 | _ => none

/-- R810: a reserved number is #UD (10_state R70), before the privilege check: 60 R1540 and R1541 put an invalid opcode first,
43 R800 the privilege check (DESIGN CHOICE, log 42). -/
def execMovFromCr (n r : RegNum) (s : State) : Host.Outcome State Fault Refusal :=
  runPlain false
    (match s.readCr n with
     | none => raiseUD
     | some v => do
       privileged
       putReg .d r v
       undefStatus) s

/-- Load the processor's copies of the PDPTEs (20_memory R228); a reserved bit is #GP(0), as R810 says of a load of CR0. -/
def loadPdptes : M Unit := do
  let s ← ask id
  let (p0, p1, p2, p3) := (pdpteInMemory s 0, pdpteInMemory s 1, pdpteInMemory s 2, pdpteInMemory s 3)
  if pdpteBad p0 || pdpteBad p1 || pdpteBad p2 || pdpteBad p3 then raiseGP 0
  update fun s => { s with pdpte := some (p0, p1, p2, p3) }

/-- The defined bits of CR0; ET reads 1 (10_state R71). -/
def cr0Of (v : Word32) : Word32 := (v &&& 0xE005002F) ||| 0x10

/-- A load of CR0 (R810, 20_memory R240). -/
def loadCr0 (v : Word32) : M Unit := do
  let old ← ask id
  if v.getLsbD 31 && !v.getLsbD 0 || v.getLsbD 29 && !v.getLsbD 30 then raiseGP 0
  if v.getLsbD 31 && !old.paging && old.pae then loadPdptes
  update fun s => { s with cr0 := cr0Of v, pdpte := if v.getLsbD 31 then s.pdpte else none }
  if v.getLsbD 31 != old.paging || v.getLsbD 0 != old.pe then flushTlb true

/-- The bits of CR3 that the layout of 10_state R73 names: 31:5, or without PAE 31:12, and 4 and 3. -/
def cr3Defined (pae : Bool) : Word32 := if pae then 0xFFFFFFF8 else 0xFFFFF018

/-- A load of CR3 (R810, 20_memory R240): its reserved bits, bits 2:0 and without PAE also bits 11:5, are ignored
(10_state R77, 92 D9). The rules give no value that they read as: they read 0 (DESIGN CHOICE, log 39). A reserved bit in an
entry reloaded under PAE is #GP(0), which R810 says of PG going 0 to 1 only, while 20_memory R228 has #PF on use (DESIGN
CHOICE, log 9). -/
def loadCr3 (v : Word32) : M Unit := do
  update fun s => { s with cr3 := v &&& cr3Defined s.pae }
  if ← ask fun s => s.paging && s.pae then loadPdptes
  flushTlb false

/-- A load of CR4 (10_state R74, R75; 20_memory R240). -/
def loadCr4 (v : Word32) : M Unit := do
  let old ← ask (·.cr4)
  if v &&& 0xFFFFF800 != 0 || v.getLsbD 9 && !Config.hasFxsr then raiseGP 0
  update fun s => { s with cr4 := v, pdpte := if v.getLsbD 5 then s.pdpte else none }
  if (old ^^^ v) &&& 0xB0 != 0 then flushTlb true

def writeCr (n : RegNum) (v : Word32) : M Unit :=
  match n.toNat with
  | 0 => loadCr0 v
  | 2 => update fun s => { s with cr2 := v }
  | 3 => loadCr3 v
  | _ => loadCr4 v

/-- R810; the order of #UD and #GP(0) on a reserved number is that of `execMovFromCr` (DESIGN CHOICE, log 42). -/
def execMovToCr (n r : RegNum) (s : State) : Host.Outcome State Fault Refusal :=
  runPlain false
    (match s.readCr n with
     | none => raiseUD
     | some _ => do
       privileged
       writeCr n (← getReg .d r)
       undefStatus) s

/-- The register a debug-register number names: 4 and 5 are 6 and 7 while CR4.DE = 0 (10_state R80). -/
def State.drNumber (s : State) (n : RegNum) : Option Nat :=
  if n = 4 ∨ n = 5 then (if s.cr4.getLsbD 3 then none else some (n.toNat + 2)) else some n.toNat

def State.readDr (s : State) (n : Nat) : Word32 :=
  match n with
  | 0 => s.dr0 | 1 => s.dr1 | 2 => s.dr2 | 3 => s.dr3 | 6 => s.dr6 | _ => s.dr7

/-- The bits of DR6 and DR7 that read as constants keep them (10_state R82, R83; log 31). -/
def State.writeDr (s : State) (n : Nat) (v : Word32) : State :=
  match n with
  | 0 => { s with dr0 := v } | 1 => { s with dr1 := v } | 2 => { s with dr2 := v } | 3 => { s with dr3 := v }
  | 6 => { s with dr6 := (v &&& 0x0000E00F) ||| 0xFFFF0FF0 }
  | _ => { s with dr7 := (v &&& 0xFFFF23FF) ||| 0x00000400 }

/-- The checks of a debug-register move (10_state R84): privilege, then general detect. -/
def debugAccess : M Unit := do
  privileged
  if ← ask fun s => s.dr7.getLsbD 13 then raise { vector := 1, dr6 := 0x2000 }

/-- R811: with CR4.DE = 1, DR4 and DR5 are #UD (10_state R84), before privilege and general detect: 60 R1540 and R1541 put an
invalid opcode first, 43 R800 and R811 those checks (DESIGN CHOICE, log 42). -/
def execMovFromDr (n r : RegNum) (s : State) : Host.Outcome State Fault Refusal :=
  runPlain false
    (match s.drNumber n with
     | none => raiseUD
     | some k => do
       debugAccess
       putReg .d r (s.readDr k)
       undefStatus) s

/-- R811; #UD for DR4 and DR5 comes first, as in `execMovFromDr` (DESIGN CHOICE, log 42). -/
def execMovToDr (n r : RegNum) (s : State) : Host.Outcome State Fault Refusal :=
  runPlain false
    (match s.drNumber n with
     | none => raiseUD
     | some k => do
       debugAccess
       update (·.writeDr k (s.reg32 r))
       undefStatus) s

/-- R812: #UD where there are no test registers; the spec gives those there are no meaning (10_state R86, 93 U47). -/
def execMovTest (_toTest : Bool) (_n _r : RegNum) (s : State) : Host.Outcome State Fault Refusal :=
  runPlain false (if Config.hasTestRegs then refuse .testRegister else raiseUD) s

/-! ## Descriptor-table and task registers (R815 to R822) -/

/-- The limit and base of a pseudo-descriptor; OS = 16 takes 24 bits of base (R815). -/
def readPseudo (m : MemRef) : M TableReg := do
  privileged
  let limit : Word16 ← readMem 16 m
  let base : Word32 ← readMemPlus 32 m 2
  return { limit, base := if ← ask State.os32 then base else base &&& 0x00FFFFFF }

/-- Store limit and base; with OS = 16 the fourth base byte is undefined (R817, 93 U18). The
offset of the base wraps at the address size (DESIGN CHOICE, log 47). -/
def writePseudo (m : MemRef) (t : TableReg) : M Unit := do
  let s ← ask id
  let lo ← dataAddrs (s.memSeg m) (s.ea m) 2 true
  let hi ← dataAddrs (s.memSeg m) (s.maskAs (s.ea m + 2)) 4 true
  let base : Word32 ← if s.os32 then pure t.base else do pure ((← free 8) ++ t.base.extractLsb' 0 24)
  writeAt t.limit.toNat lo
  writeAt base.toNat hi

/-- R815. -/
def execLgdt (m : MemRef) (s : State) : Host.Outcome State Fault Refusal :=
  runPlain false (do
    let t ← readPseudo m
    update fun s => { s with gdtr := t }) s
/-- R816. -/
def execLidt (m : MemRef) (s : State) : Host.Outcome State Fault Refusal :=
  runPlain false (do
    let t ← readPseudo m
    update fun s => { s with idtr := t }) s
/-- R817. -/
def execSgdt (m : MemRef) (s : State) : Host.Outcome State Fault Refusal := runPlain false (writePseudo m s.gdtr) s
/-- R818. -/
def execSidt (m : MemRef) (s : State) : Host.Outcome State Fault Refusal := runPlain false (writePseudo m s.idtr) s

/-- The GDT descriptor of a system segment selector, with its address (R819, R821). -/
def systemDesc (sel : Word16) (typeOk : BitVec 4 → Bool) : M (Word32 × Word64) := do
  if sel.getLsbD 2 then raiseGP (selErr sel)
  let (a, d) ← readDesc sel (raiseGP (selErr sel))
  if descS d || !typeOk (descType d) then raiseGP (selErr sel)
  if !descP d then raiseNP (selErr sel)
  return (a, d)

/-- R819: a null selector makes the LDT unusable. It becomes LDTR's visible selector too, RPL and all, of which R819 does
not say (DESIGN CHOICE, log 49). -/
def execLldt (x : Rm) (s : State) : Host.Outcome State Fault Refusal :=
  runPlain false (do
    protectedOnly
    privileged
    let sel : Word16 ← readRm .w x
    if isNull sel then update fun s => { s with ldtr := nullSeg sel }
    else
      let (_, d) ← systemDesc sel (· == 2)
      update fun s => { s with ldtr := segOfDesc sel d }) s

/-- R821: the busy bit is set in the descriptor. A 16-bit TSS is refused (92 D7). -/
def execLtr (x : Rm) (s : State) : Host.Outcome State Fault Refusal :=
  runPlain false (do
    protectedOnly
    privileged
    let sel : Word16 ← readRm .w x
    if isNull sel then raiseGP 0
    let (a, d) ← systemDesc sel (fun t => t == 1 || t == 9)
    if descType d == 1 then refuse .tss16
    let d' := setBit d 41 true
    sysWrite (a + 5) 1 (d'.extractLsb' 40 8).toNat
    update fun s => { s with tr := segOfDesc sel d' }) s

/-- Store a 16-bit register: zero-extended to a register, two bytes to memory (R820, R822). -/
def storeSel (x : Rm) (sel : Word16) : M Unit := do
  match x with
  | .reg r =>
    let sz ← ask State.osz
    putReg sz r (sel.setWidth sz.bits)
  | .mem m => writeMem m sel

/-- R820. -/
def execSldt (x : Rm) (s : State) : Host.Outcome State Fault Refusal :=
  runPlain false (do
    protectedOnly
    storeSel x s.ldtr.sel) s
/-- R822. -/
def execStr (x : Rm) (s : State) : Host.Outcome State Fault Refusal :=
  runPlain false (do
    protectedOnly
    storeSel x s.tr.sel) s

/-! ## Machine status word (R823 to R825) -/

/-- R823: PE can be set but not cleared. -/
def execLmsw (x : Rm) (s : State) : Host.Outcome State Fault Refusal :=
  runPlain false (do
    privileged
    let v : Word16 ← readRm .w x
    update fun s => { s with cr0 := (s.cr0 &&& 0xFFFFFFF1) ||| (v.setWidth 32 &&& 0xF) }
    if v.getLsbD 0 && !s.pe then flushTlb true) s

/-- R824: the upper half of a 32-bit register is undefined (93 U19). -/
def execSmsw (x : Rm) (s : State) : Host.Outcome State Fault Refusal :=
  runPlain false
    (match x with
     | .reg r => do
       if s.os32 then putReg .d r ((← free 16) ++ s.cr0.extractLsb' 0 16) else putReg .w r (s.cr0.extractLsb' 0 16)
     | .mem m => writeMem m (s.cr0.extractLsb' 0 16)) s

/-- R825. -/
def execClts (s : State) : Host.Outcome State Fault Refusal :=
  runPlain false (do
    privileged
    update fun s => { s with cr0 := setBit s.cr0 3 false }) s

/-! ## CPUID, MSRs and counters (R830 to R835) -/

/-- The highest basic function (log 11). -/
def cpuidMax : Word32 := 5

/-- EDX of function 1: the feature bits of the instructions of this spec, every other bit as configured, and the parameters
HAS_FXSR, HAS_SSE and HAS_SSE2 of 00_scope R9 at their places (R831). -/
def cpuidFeatureEdx : Word32 :=
  setBit (setBit (setBit (Config.cpuidEdx 1 ||| 0x0088A97D) 24 Config.hasFxsr) 25 Config.hasSse) 26 Config.hasSse2

/-- ECX of function 1: HAS_SSE3, MONITOR with it (R880), and HAS_CNXT_ID at their places (R831). -/
def cpuidFeatureEcx : Word32 :=
  setBit (setBit (setBit (Config.cpuidEcx 1) 0 Config.hasSse3) 3 Config.hasSse3) 10 Config.hasCnxtId

/-- The size in bytes of the block that MONITOR arms, in the low half of a word: the smallest and the largest size of
function 5 are one (10_state R176, 93 U45; log 11). -/
def monitorSize (open_ : Word32) : Word32 := open_.extractLsb' 16 16 ++ (1#16 <<< Config.monitorLineBits.toNat)

/-- CPUID_TABLE (R831): EAX, EBX, ECX, EDX of a function. -/
def cpuidTable (leaf : Word32) : Word32 × Word32 × Word32 × Word32 :=
  let f := if cpuidMax.ult leaf then cpuidMax else leaf
  if f = 0 then (cpuidMax, 0x756E6547, 0x6C65746E, 0x49656E69)
  else if f = 1 then
    (Config.signature, Config.cpuidEbx 1, cpuidFeatureEcx, cpuidFeatureEdx)
  else if f = 5 then (monitorSize (Config.cpuidEax 5), monitorSize (Config.cpuidEbx 5), Config.cpuidEcx 5, Config.cpuidEdx 5)
  else (Config.cpuidEax f, Config.cpuidEbx f, Config.cpuidEcx f, Config.cpuidEdx f)

/-- R830: the table, then the revision deposit (10_state R114). -/
def execCpuid (s : State) : Host.Outcome State Fault Refusal :=
  runPlain false (do
    let (a, b, c, d) := cpuidTable (s.reg32 rAX)
    putReg .d rAX a
    putReg .d rBX b
    putReg .d rCX c
    putReg .d rDX d
    if s.ucode.loaded then
      updateMsr fun r => { r with biosSignId := s.ucode.revision ++ r.biosSignId.extractLsb' 0 32 }) s

/-- R832. -/
def execRdmsr (s : State) : Host.Outcome State Fault Refusal :=
  runPlain false (do
    privileged
    let v ← readMsr (s.reg32 rCX).toNat
    putReg .d rDX (v.extractLsb' 32 32)
    putReg .d rAX (v.extractLsb' 0 32)) s

/-- R833. -/
def execWrmsr (s : State) : Host.Outcome State Fault Refusal :=
  runPlain false (do
    privileged
    writeMsr (s.reg32 rCX).toNat (s.reg32 rDX ++ s.reg32 rAX)) s

/-- R834. -/
def execRdtsc (s : State) : Host.Outcome State Fault Refusal :=
  runPlain false (do
    if s.cr4.getLsbD 2 && s.cpl != 0 then raiseGP 0
    let v ← readTsc
    putReg .d rDX (v.extractLsb' 32 32)
    putReg .d rAX (v.extractLsb' 0 32)) s

/-- R835: counters 12 to 17; ECX bit 31 selects a 32-bit read (log 20). -/
def execRdpmc (s : State) : Host.Outcome State Fault Refusal :=
  runPlain false (do
    if !s.cr4.getLsbD 8 && s.cpl != 0 then raiseGP 0
    let n := ((s.reg32 rCX).extractLsb' 0 31).toNat
    if n < 12 || 17 < n then raiseGP 0
    let v ← readCounter (n - 12)
    putReg .d rDX (if (s.reg32 rCX).getLsbD 31 then 0#32 else (v.extractLsb' 32 8).setWidth 32)
    putReg .d rAX (v.extractLsb' 0 32)) s

/-! ## Protection checks (R840 to R844) -/

/-- R840: a destination, checked as a write though it is written only if the RPL is adjusted: 60 R1525 says this of
read-modify-write instructions and does not name ARPL (DESIGN CHOICE, log 10). -/
def execArpl (x : Rm) (r : RegNum) (s : State) : Host.Outcome State Fault Refusal :=
  runPlain false (do
    protectedOnly
    probe (locate .w x true)
    let d : Word16 ← readRm .w x
    let rpl := selRpl (s.readReg .w r)
    putFlag fZF (decide (selRpl d < rpl))
    if selRpl d < rpl then writeRm .w x (withRpl d rpl)) s

/-- The descriptor of a selector that is not null and lies inside its table. -/
def inspect (sel : Word16) : M (Option Word64) := do
  if isNull sel then return none
  match ← ask (·.descAddr sel) with
  | none => return none
  | some a => return some (BitVec.ofNat 64 (← sysRead a 8))

/-- Visible at the current privilege level (R841): DPL at least CPL and RPL, unless conforming code. -/
def visible (cpl : BitVec 2) (sel : Word16) (r : SegReg) : Bool :=
  r.conforming || (cpl ≤ r.dpl && selRpl sel ≤ r.dpl)

/-- The system types LAR and LSL accept. -/
def larType (t : BitVec 4) : Bool := t == 1 || t == 2 || t == 3 || t == 4 || t == 5 || t == 9 || t == 11 || t == 12
def lslType (t : BitVec 4) : Bool := t == 1 || t == 2 || t == 3 || t == 9 || t == 11

/-- A protection check of the selector in an operand (R841 to R844): ZF says whether it passes, and then `use` runs. -/
def checkSelector (x : Rm) (ok : SegReg → Bool) (use : Word64 → M Unit) : M Unit := do
  protectedOnly
  let sel : Word16 ← readRm .w x
  let cpl ← ask (·.cpl)
  match ← inspect sel with
  | none => putFlag fZF false
  | some d =>
    let pass := ok (segOfDesc sel d) && visible cpl sel (segOfDesc sel d)
    putFlag fZF pass
    if pass then use d

/-- R841. -/
def execLar (r : RegNum) (x : Rm) (s : State) : Host.Outcome State Fault Refusal :=
  runPlain false (checkSelector x (fun g => g.s || larType g.typ) (fun d =>
    if s.os32 then putReg .d r (d.extractLsb' 32 32 &&& 0x00F0FF00)
    else putReg .w r (d.extractLsb' 32 16 &&& 0xFF00))) s

/-- R842. -/
def execLsl (r : RegNum) (x : Rm) (s : State) : Host.Outcome State Fault Refusal :=
  runPlain false (checkSelector x (fun g => g.s || lslType g.typ) (fun d =>
    putReg s.osz r ((descLimit d).setWidth s.osz.bits))) s

/-- R843. -/
def execVerr (x : Rm) (s : State) : Host.Outcome State Fault Refusal :=
  runPlain false (checkSelector x SegReg.readable (fun _ => return ())) s
/-- R844. -/
def execVerw (x : Rm) (s : State) : Host.Outcome State Fault Refusal :=
  runPlain false (checkSelector x SegReg.writable (fun _ => return ())) s

/-! ## Interrupt flag and halt (R850 to R852) -/

/-- CLI and STI need IOPL ≥ CPL in protected mode; the virtual flag of CR4.PVI is refused (92 D7). -/
def interruptAccess : M Unit := do
  let s ← ask id
  if s.pe && s.iopl < s.cpl then
    if s.cr4.getLsbD 1 && s.cpl == 3 then refuse .virtual8086
    raiseGP 0

/-- R850. -/
def execCli (s : State) : Host.Outcome State Fault Refusal :=
  runPlain false (do
    interruptAccess
    putFlag fIF false) s

/-- R851: a shadow of one instruction if IF was 0. -/
def execSti (s : State) : Host.Outcome State Fault Refusal :=
  runPlain false (do
    interruptAccess
    update fun t => { t.setFlag fIF true with stiShadow := !s.flag fIF }) s

/-- R852. -/
def execHlt (s : State) : Host.Outcome State Fault Refusal :=
  runPlain false (do
    privileged
    update fun s => { s with activity := .halted }) s

/-! ## Caches and the TLB (R860 to R862) -/

/-- R860: refused at privilege level 0 (92 D21). -/
def execInvd (s : State) : Host.Outcome State Fault Refusal :=
  runPlain false (do
    privileged
    refuse .invd) s

/-- R861: no architectural value changes. -/
def execWbinvd (s : State) : Host.Outcome State Fault Refusal := runPlain false privileged s

/-- R862: every cached piece of the page that holds the operand (20_memory R240). -/
def execInvlpg (m : MemRef) (s : State) : Host.Outcome State Fault Refusal :=
  runPlain false (do
    privileged
    let la := (s.seg (s.memSeg m)).base + s.ea m
    update fun s => { s with tlb := s.tlb.filter fun e => !e.covers la }) s

/-! ## RSM, MONITOR, MWAIT, UD2 (R870 to R900) -/

/-- A saved state that RSM refuses to load: it shuts down (R870). -/
def badSaved (c : Cpu) : Bool :=
  c.cr4 &&& 0xFFFFF800 != 0 || c.cr0.getLsbD 31 && !c.cr0.getLsbD 0 || c.cr0.getLsbD 29 && !c.cr0.getLsbD 30

/-- Restore what SMM entry saved; SMBASE comes from its slot of the save map (60 R1607, R1608). The handler's choices are
free: an I/O instruction that SMM interrupted may be started again, and HALT may be left (R1608(c), 92 D24; log 8). -/
def State.resume (s : State) (c : Cpu) : State :=
  let t : State := { s with
    toCpu := c
    smbase := BitVec.ofNat 32 (physReadNat s (smmSlot s.smbase 0x7EF8))
    inSmm := false, smmDump := none, smmRestart := none, tlb := [], cur := .none, repBusy := false, lastIo := none }
  match s.smmRestart with
  | some io => if t.choose.1 then t.choose.2.restartIo io else t.choose.2
  | none =>
    if c.activity = .halted then { t.choose.2 with activity := if t.choose.1 then .halted else .running } else t

/-- R870: #UD outside SMM. -/
def execRsm (s : State) : Host.Outcome State Fault Refusal :=
  match s.smmDump with
  | none => runPlain false raiseUD s
  | some c =>
    if !s.inSmm || s.cur.lock then runPlain false raiseUD s
    else if badSaved c then .next s.enterShutdown
    else .next (s.resume c)

/-- MONITOR and MWAIT: #UD above privilege level 0, #GP(0) for an extension in ECX (R880, R881). -/
def monitorAccess : M Unit := do
  let s ← ask id
  if s.cpl != 0 || !Config.hasSse3 then raiseUD
  if s.reg32 rCX != 0 then raiseGP 0

/-- The first byte of the block of 2^k bytes around an address (10_state R176). -/
def blockBase (k : Nat) (la : Word32) : Word32 := (la >>> k) <<< k

/-- R880. The check of the address counts as a one-byte read for data breakpoints, which R880 and 60 R1562 leave open (DESIGN
CHOICE, log 10). -/
def execMonitor (s : State) : Host.Outcome State Fault Refusal :=
  runPlain false (do
    monitorAccess
    let sg := s.dataSeg .ds
    let off := s.asReg rAX
    let _ ← dataAddrs sg off 1 false
    update fun t => { t with
      monitor := { armed := true, base := blockBase Config.monitorLineBits.toNat ((s.seg sg).base + off) } }) s

/-- R881. -/
def execMwait (s : State) : Host.Outcome State Fault Refusal :=
  runPlain false (do
    monitorAccess
    if s.monitor.armed then update fun t => { t with activity := .mwait }) s

/-- R900. -/
def execUd2 (s : State) : Host.Outcome State Fault Refusal := runPlain false raiseUD s

/-- 30_encoding R334: 0F B9. -/
def execGroup10 (s : State) : Host.Outcome State Fault Refusal := runPlain false raiseUD s

end Sys2Proof.Machine
end

