-- ==== Sys2Proof/Machine/Dispatch.lean ====
section
/-! DEFINITION. One arm per instruction (spec/opcode_table.json): a direct call of its meaning. -/
namespace Sys2Proof.Machine

def exec (i : Instr) (s : State) : Host.Outcome State Fault Refusal :=
  match i with
  | .lock => Sys2Proof.Machine.execLock s
  | .repne => Sys2Proof.Machine.execRepne s
  | .rep => Sys2Proof.Machine.execRep s
  | .csOverride => Sys2Proof.Machine.execCsOverride s
  | .ssOverride => Sys2Proof.Machine.execSsOverride s
  | .dsOverride => Sys2Proof.Machine.execDsOverride s
  | .esOverride => Sys2Proof.Machine.execEsOverride s
  | .fsOverride => Sys2Proof.Machine.execFsOverride s
  | .gsOverride => Sys2Proof.Machine.execGsOverride s
  | .opSizeOverride => Sys2Proof.Machine.execOpSizeOverride s
  | .addrSizeOverride => Sys2Proof.Machine.execAddrSizeOverride s
  | .add f => Sys2Proof.Machine.execAdd f s
  | .or f => Sys2Proof.Machine.execOr f s
  | .adc f => Sys2Proof.Machine.execAdc f s
  | .sbb f => Sys2Proof.Machine.execSbb f s
  | .and f => Sys2Proof.Machine.execAnd f s
  | .sub f => Sys2Proof.Machine.execSub f s
  | .xor f => Sys2Proof.Machine.execXor f s
  | .cmp f => Sys2Proof.Machine.execCmp f s
  | .inc f => Sys2Proof.Machine.execInc f s
  | .dec f => Sys2Proof.Machine.execDec f s
  | .not w rm => Sys2Proof.Machine.execNot w rm s
  | .neg w rm => Sys2Proof.Machine.execNeg w rm s
  | .mul w rm => Sys2Proof.Machine.execMul w rm s
  | .div w rm => Sys2Proof.Machine.execDiv w rm s
  | .idiv w rm => Sys2Proof.Machine.execIdiv w rm s
  | .test f => Sys2Proof.Machine.execTest f s
  | .imulAcc w rm => Sys2Proof.Machine.execImulAcc w rm s
  | .imulRm r rm => Sys2Proof.Machine.execImulRm r rm s
  | .imulImm r rm imm => Sys2Proof.Machine.execImulImm r rm imm s
  | .rol f => Sys2Proof.Machine.execRol f s
  | .ror f => Sys2Proof.Machine.execRor f s
  | .rcl f => Sys2Proof.Machine.execRcl f s
  | .rcr f => Sys2Proof.Machine.execRcr f s
  | .shl f => Sys2Proof.Machine.execShl f s
  | .shr f => Sys2Proof.Machine.execShr f s
  | .sar f => Sys2Proof.Machine.execSar f s
  | .shld f => Sys2Proof.Machine.execShld f s
  | .shrd f => Sys2Proof.Machine.execShrd f s
  | .bt f => Sys2Proof.Machine.execBt f s
  | .bts f => Sys2Proof.Machine.execBts f s
  | .btr f => Sys2Proof.Machine.execBtr f s
  | .btc f => Sys2Proof.Machine.execBtc f s
  | .bsf r rm => Sys2Proof.Machine.execBsf r rm s
  | .bsr r rm => Sys2Proof.Machine.execBsr r rm s
  | .bswap r => Sys2Proof.Machine.execBswap r s
  | .setcc cc rm => Sys2Proof.Machine.execSetcc cc rm s
  | .xadd w rm r => Sys2Proof.Machine.execXadd w rm r s
  | .cmpxchg w rm r => Sys2Proof.Machine.execCmpxchg w rm r s
  | .cmpxchg8b m => Sys2Proof.Machine.execCmpxchg8b m s
  | .clc => Sys2Proof.Machine.execClc s
  | .stc => Sys2Proof.Machine.execStc s
  | .cmc => Sys2Proof.Machine.execCmc s
  | .cld => Sys2Proof.Machine.execCld s
  | .std => Sys2Proof.Machine.execStd s
  | .lahf => Sys2Proof.Machine.execLahf s
  | .sahf => Sys2Proof.Machine.execSahf s
  | .aaa => Sys2Proof.Machine.execAaa s
  | .aas => Sys2Proof.Machine.execAas s
  | .daa => Sys2Proof.Machine.execDaa s
  | .das => Sys2Proof.Machine.execDas s
  | .aam n => Sys2Proof.Machine.execAam n s
  | .aad n => Sys2Proof.Machine.execAad n s
  | .mov f => Sys2Proof.Machine.execMov f s
  | .movFromOffs w o => Sys2Proof.Machine.execMovFromOffs w o s
  | .movToOffs w o => Sys2Proof.Machine.execMovToOffs w o s
  | .movToSeg sr rm => Sys2Proof.Machine.execMovToSeg sr rm s
  | .movFromSeg rm sr => Sys2Proof.Machine.execMovFromSeg rm sr s
  | .movsx w r rm => Sys2Proof.Machine.execMovsx w r rm s
  | .movzx w r rm => Sys2Proof.Machine.execMovzx w r rm s
  | .xchg f => Sys2Proof.Machine.execXchg f s
  | .nop => Sys2Proof.Machine.execNop s
  | .lea r m => Sys2Proof.Machine.execLea r m s
  | .cmovcc cc r rm => Sys2Proof.Machine.execCmovcc cc r rm s
  | .cbw => Sys2Proof.Machine.execCbw s
  | .cwd => Sys2Proof.Machine.execCwd s
  | .xlat => Sys2Proof.Machine.execXlat s
  | .push f => Sys2Proof.Machine.execPush f s
  | .pop f => Sys2Proof.Machine.execPop f s
  | .pusha => Sys2Proof.Machine.execPusha s
  | .popa => Sys2Proof.Machine.execPopa s
  | .pushf => Sys2Proof.Machine.execPushf s
  | .popf => Sys2Proof.Machine.execPopf s
  | .enter size level => Sys2Proof.Machine.execEnter size level s
  | .leave => Sys2Proof.Machine.execLeave s
  | .lds r m => Sys2Proof.Machine.execLds r m s
  | .les r m => Sys2Proof.Machine.execLes r m s
  | .lss r m => Sys2Proof.Machine.execLss r m s
  | .lfs r m => Sys2Proof.Machine.execLfs r m s
  | .lgs r m => Sys2Proof.Machine.execLgs r m s
  | .movs w => Sys2Proof.Machine.execMovs w s
  | .cmps w => Sys2Proof.Machine.execCmps w s
  | .stos w => Sys2Proof.Machine.execStos w s
  | .lods w => Sys2Proof.Machine.execLods w s
  | .scas w => Sys2Proof.Machine.execScas w s
  | .ins w => Sys2Proof.Machine.execIns w s
  | .outs w => Sys2Proof.Machine.execOuts w s
  | .inPort f => Sys2Proof.Machine.execInPort f s
  | .outPort f => Sys2Proof.Machine.execOutPort f s
  | .jmp f => Sys2Proof.Machine.execJmp f s
  | .jmpFar f => Sys2Proof.Machine.execJmpFar f s
  | .jcc cc d => Sys2Proof.Machine.execJcc cc d s
  | .jcxz d => Sys2Proof.Machine.execJcxz d s
  | .loop d => Sys2Proof.Machine.execLoop d s
  | .loope d => Sys2Proof.Machine.execLoope d s
  | .loopne d => Sys2Proof.Machine.execLoopne d s
  | .call f => Sys2Proof.Machine.execCall f s
  | .callFar f => Sys2Proof.Machine.execCallFar f s
  | .ret n => Sys2Proof.Machine.execRet n s
  | .retf n => Sys2Proof.Machine.execRetf n s
  | .int n => Sys2Proof.Machine.execInt n s
  | .int3 => Sys2Proof.Machine.execInt3 s
  | .into => Sys2Proof.Machine.execInto s
  | .iret => Sys2Proof.Machine.execIret s
  | .bound r m => Sys2Proof.Machine.execBound r m s
  | .sysenter => Sys2Proof.Machine.execSysenter s
  | .sysexit => Sys2Proof.Machine.execSysexit s
  | .movToCr n r => Sys2Proof.Machine.execMovToCr n r s
  | .movFromCr n r => Sys2Proof.Machine.execMovFromCr n r s
  | .movToDr n r => Sys2Proof.Machine.execMovToDr n r s
  | .movFromDr n r => Sys2Proof.Machine.execMovFromDr n r s
  | .movTest toTest n r => Sys2Proof.Machine.execMovTest toTest n r s
  | .sgdt m => Sys2Proof.Machine.execSgdt m s
  | .sidt m => Sys2Proof.Machine.execSidt m s
  | .lgdt m => Sys2Proof.Machine.execLgdt m s
  | .lidt m => Sys2Proof.Machine.execLidt m s
  | .invlpg m => Sys2Proof.Machine.execInvlpg m s
  | .smsw rm => Sys2Proof.Machine.execSmsw rm s
  | .lmsw rm => Sys2Proof.Machine.execLmsw rm s
  | .sldt rm => Sys2Proof.Machine.execSldt rm s
  | .str rm => Sys2Proof.Machine.execStr rm s
  | .lldt rm => Sys2Proof.Machine.execLldt rm s
  | .ltr rm => Sys2Proof.Machine.execLtr rm s
  | .verr rm => Sys2Proof.Machine.execVerr rm s
  | .verw rm => Sys2Proof.Machine.execVerw rm s
  | .lar r rm => Sys2Proof.Machine.execLar r rm s
  | .lsl r rm => Sys2Proof.Machine.execLsl r rm s
  | .arpl rm r => Sys2Proof.Machine.execArpl rm r s
  | .monitor => Sys2Proof.Machine.execMonitor s
  | .mwait => Sys2Proof.Machine.execMwait s
  | .clts => Sys2Proof.Machine.execClts s
  | .invd => Sys2Proof.Machine.execInvd s
  | .wbinvd => Sys2Proof.Machine.execWbinvd s
  | .ud2 => Sys2Proof.Machine.execUd2 s
  | .group10 => Sys2Proof.Machine.execGroup10 s
  | .wrmsr => Sys2Proof.Machine.execWrmsr s
  | .rdtsc => Sys2Proof.Machine.execRdtsc s
  | .rdmsr => Sys2Proof.Machine.execRdmsr s
  | .rdpmc => Sys2Proof.Machine.execRdpmc s
  | .cpuid => Sys2Proof.Machine.execCpuid s
  | .rsm => Sys2Proof.Machine.execRsm s
  | .cli => Sys2Proof.Machine.execCli s
  | .sti => Sys2Proof.Machine.execSti s
  | .hlt => Sys2Proof.Machine.execHlt s
  | .fadd f => Sys2Proof.Machine.execFadd f s
  | .fmul f => Sys2Proof.Machine.execFmul f s
  | .fsub f => Sys2Proof.Machine.execFsub f s
  | .fsubr f => Sys2Proof.Machine.execFsubr f s
  | .fdiv f => Sys2Proof.Machine.execFdiv f s
  | .fdivr f => Sys2Proof.Machine.execFdivr f s
  | .fcom f => Sys2Proof.Machine.execFcom f s
  | .fcomp f => Sys2Proof.Machine.execFcomp f s
  | .fiadd f => Sys2Proof.Machine.execFiadd f s
  | .fimul f => Sys2Proof.Machine.execFimul f s
  | .ficom f => Sys2Proof.Machine.execFicom f s
  | .ficomp f => Sys2Proof.Machine.execFicomp f s
  | .fisub f => Sys2Proof.Machine.execFisub f s
  | .fisubr f => Sys2Proof.Machine.execFisubr f s
  | .fidiv f => Sys2Proof.Machine.execFidiv f s
  | .fidivr f => Sys2Proof.Machine.execFidivr f s
  | .fld f => Sys2Proof.Machine.execFld f s
  | .fst f => Sys2Proof.Machine.execFst f s
  | .fstp f => Sys2Proof.Machine.execFstp f s
  | .fild f => Sys2Proof.Machine.execFild f s
  | .fist f => Sys2Proof.Machine.execFist f s
  | .fistp f => Sys2Proof.Machine.execFistp f s
  | .fisttp f => Sys2Proof.Machine.execFisttp f s
  | .fbld m => Sys2Proof.Machine.execFbld m s
  | .fbstp m => Sys2Proof.Machine.execFbstp m s
  | .fldenv m => Sys2Proof.Machine.execFldenv m s
  | .fldcw m => Sys2Proof.Machine.execFldcw m s
  | .fnstenv m => Sys2Proof.Machine.execFnstenv m s
  | .fnstcw m => Sys2Proof.Machine.execFnstcw m s
  | .frstor m => Sys2Proof.Machine.execFrstor m s
  | .fnsave m => Sys2Proof.Machine.execFnsave m s
  | .fnstsw f => Sys2Proof.Machine.execFnstsw f s
  | .faddp st => Sys2Proof.Machine.execFaddp st s
  | .fmulp st => Sys2Proof.Machine.execFmulp st s
  | .fsubp st => Sys2Proof.Machine.execFsubp st s
  | .fsubrp st => Sys2Proof.Machine.execFsubrp st s
  | .fdivp st => Sys2Proof.Machine.execFdivp st s
  | .fdivrp st => Sys2Proof.Machine.execFdivrp st s
  | .fcompp => Sys2Proof.Machine.execFcompp s
  | .fucompp => Sys2Proof.Machine.execFucompp s
  | .fxch st => Sys2Proof.Machine.execFxch st s
  | .ffree st => Sys2Proof.Machine.execFfree st s
  | .fucom st => Sys2Proof.Machine.execFucom st s
  | .fucomp st => Sys2Proof.Machine.execFucomp st s
  | .fucomi st => Sys2Proof.Machine.execFucomi st s
  | .fcomi st => Sys2Proof.Machine.execFcomi st s
  | .fucomip st => Sys2Proof.Machine.execFucomip st s
  | .fcomip st => Sys2Proof.Machine.execFcomip st s
  | .fcmovb st => Sys2Proof.Machine.execFcmovb st s
  | .fcmove st => Sys2Proof.Machine.execFcmove st s
  | .fcmovbe st => Sys2Proof.Machine.execFcmovbe st s
  | .fcmovu st => Sys2Proof.Machine.execFcmovu st s
  | .fcmovnb st => Sys2Proof.Machine.execFcmovnb st s
  | .fcmovne st => Sys2Proof.Machine.execFcmovne st s
  | .fcmovnbe st => Sys2Proof.Machine.execFcmovnbe st s
  | .fcmovnu st => Sys2Proof.Machine.execFcmovnu st s
  | .fnop => Sys2Proof.Machine.execFnop s
  | .fchs => Sys2Proof.Machine.execFchs s
  | .fabs => Sys2Proof.Machine.execFabs s
  | .ftst => Sys2Proof.Machine.execFtst s
  | .fxam => Sys2Proof.Machine.execFxam s
  | .fld1 => Sys2Proof.Machine.execFld1 s
  | .fldl2t => Sys2Proof.Machine.execFldl2t s
  | .fldl2e => Sys2Proof.Machine.execFldl2e s
  | .fldpi => Sys2Proof.Machine.execFldpi s
  | .fldlg2 => Sys2Proof.Machine.execFldlg2 s
  | .fldln2 => Sys2Proof.Machine.execFldln2 s
  | .fldz => Sys2Proof.Machine.execFldz s
  | .f2xm1 => Sys2Proof.Machine.execF2xm1 s
  | .fyl2x => Sys2Proof.Machine.execFyl2x s
  | .fptan => Sys2Proof.Machine.execFptan s
  | .fpatan => Sys2Proof.Machine.execFpatan s
  | .fxtract => Sys2Proof.Machine.execFxtract s
  | .fprem1 => Sys2Proof.Machine.execFprem1 s
  | .fdecstp => Sys2Proof.Machine.execFdecstp s
  | .fincstp => Sys2Proof.Machine.execFincstp s
  | .fprem => Sys2Proof.Machine.execFprem s
  | .fyl2xp1 => Sys2Proof.Machine.execFyl2xp1 s
  | .fsqrt => Sys2Proof.Machine.execFsqrt s
  | .fsincos => Sys2Proof.Machine.execFsincos s
  | .frndint => Sys2Proof.Machine.execFrndint s
  | .fscale => Sys2Proof.Machine.execFscale s
  | .fsin => Sys2Proof.Machine.execFsin s
  | .fcos => Sys2Proof.Machine.execFcos s
  | .fnclex => Sys2Proof.Machine.execFnclex s
  | .fninit => Sys2Proof.Machine.execFninit s
  | .fwait => Sys2Proof.Machine.execFwait s
  | .fxsave m => Sys2Proof.Machine.execFxsave m s
  | .fxrstor m => Sys2Proof.Machine.execFxrstor m s
  | .emms => Sys2Proof.Machine.execEmms s
  | .movd f => Sys2Proof.Machine.execMovd f s
  | .movq f => Sys2Proof.Machine.execMovq f s
  | .packsswb o => Sys2Proof.Machine.execPacksswb o s
  | .packssdw o => Sys2Proof.Machine.execPackssdw o s
  | .packuswb o => Sys2Proof.Machine.execPackuswb o s
  | .punpckhbw o => Sys2Proof.Machine.execPunpckhbw o s
  | .punpckhwd o => Sys2Proof.Machine.execPunpckhwd o s
  | .punpckhdq o => Sys2Proof.Machine.execPunpckhdq o s
  | .punpcklbw o => Sys2Proof.Machine.execPunpcklbw o s
  | .punpcklwd o => Sys2Proof.Machine.execPunpcklwd o s
  | .punpckldq o => Sys2Proof.Machine.execPunpckldq o s
  | .paddb o => Sys2Proof.Machine.execPaddb o s
  | .paddw o => Sys2Proof.Machine.execPaddw o s
  | .paddd o => Sys2Proof.Machine.execPaddd o s
  | .paddq o => Sys2Proof.Machine.execPaddq o s
  | .paddsb o => Sys2Proof.Machine.execPaddsb o s
  | .paddsw o => Sys2Proof.Machine.execPaddsw o s
  | .paddusb o => Sys2Proof.Machine.execPaddusb o s
  | .paddusw o => Sys2Proof.Machine.execPaddusw o s
  | .psubb o => Sys2Proof.Machine.execPsubb o s
  | .psubw o => Sys2Proof.Machine.execPsubw o s
  | .psubd o => Sys2Proof.Machine.execPsubd o s
  | .psubq o => Sys2Proof.Machine.execPsubq o s
  | .psubsb o => Sys2Proof.Machine.execPsubsb o s
  | .psubsw o => Sys2Proof.Machine.execPsubsw o s
  | .psubusb o => Sys2Proof.Machine.execPsubusb o s
  | .psubusw o => Sys2Proof.Machine.execPsubusw o s
  | .pmaddwd o => Sys2Proof.Machine.execPmaddwd o s
  | .pmulhuw o => Sys2Proof.Machine.execPmulhuw o s
  | .pmulhw o => Sys2Proof.Machine.execPmulhw o s
  | .pmullw o => Sys2Proof.Machine.execPmullw o s
  | .pmuludq o => Sys2Proof.Machine.execPmuludq o s
  | .pcmpeqb o => Sys2Proof.Machine.execPcmpeqb o s
  | .pcmpeqw o => Sys2Proof.Machine.execPcmpeqw o s
  | .pcmpeqd o => Sys2Proof.Machine.execPcmpeqd o s
  | .pcmpgtb o => Sys2Proof.Machine.execPcmpgtb o s
  | .pcmpgtw o => Sys2Proof.Machine.execPcmpgtw o s
  | .pcmpgtd o => Sys2Proof.Machine.execPcmpgtd o s
  | .pand o => Sys2Proof.Machine.execPand o s
  | .pandn o => Sys2Proof.Machine.execPandn o s
  | .por o => Sys2Proof.Machine.execPor o s
  | .pxor o => Sys2Proof.Machine.execPxor o s
  | .pavgb o => Sys2Proof.Machine.execPavgb o s
  | .pavgw o => Sys2Proof.Machine.execPavgw o s
  | .pmaxsw o => Sys2Proof.Machine.execPmaxsw o s
  | .pmaxub o => Sys2Proof.Machine.execPmaxub o s
  | .pminsw o => Sys2Proof.Machine.execPminsw o s
  | .pminub o => Sys2Proof.Machine.execPminub o s
  | .psadbw o => Sys2Proof.Machine.execPsadbw o s
  | .psllw o => Sys2Proof.Machine.execPsllw o s
  | .pslld o => Sys2Proof.Machine.execPslld o s
  | .psllq o => Sys2Proof.Machine.execPsllq o s
  | .psraw o => Sys2Proof.Machine.execPsraw o s
  | .psrad o => Sys2Proof.Machine.execPsrad o s
  | .psrlw o => Sys2Proof.Machine.execPsrlw o s
  | .psrld o => Sys2Proof.Machine.execPsrld o s
  | .psrlq o => Sys2Proof.Machine.execPsrlq o s
  | .pslldq r n => Sys2Proof.Machine.execPslldq r n s
  | .psrldq r n => Sys2Proof.Machine.execPsrldq r n s
  | .punpckhqdq d src => Sys2Proof.Machine.execPunpckhqdq d src s
  | .punpcklqdq d src => Sys2Proof.Machine.execPunpcklqdq d src s
  | .pextrw o n => Sys2Proof.Machine.execPextrw o n s
  | .pinsrw o n => Sys2Proof.Machine.execPinsrw o n s
  | .pmovmskb o => Sys2Proof.Machine.execPmovmskb o s
  | .pshufw d src n => Sys2Proof.Machine.execPshufw d src n s
  | .pshufd d src n => Sys2Proof.Machine.execPshufd d src n s
  | .pshufhw d src n => Sys2Proof.Machine.execPshufhw d src n s
  | .pshuflw d src n => Sys2Proof.Machine.execPshuflw d src n s
  | .maskmovq src m => Sys2Proof.Machine.execMaskmovq src m s
  | .maskmovdqu src m => Sys2Proof.Machine.execMaskmovdqu src m s
  | .movntq m src => Sys2Proof.Machine.execMovntq m src s
  | .movntdq m src => Sys2Proof.Machine.execMovntdq m src s
  | .movntps m src => Sys2Proof.Machine.execMovntps m src s
  | .movntpd m src => Sys2Proof.Machine.execMovntpd m src s
  | .movnti m src => Sys2Proof.Machine.execMovnti m src s
  | .prefetchnta m => Sys2Proof.Machine.execPrefetchnta m s
  | .prefetcht0 m => Sys2Proof.Machine.execPrefetcht0 m s
  | .prefetcht1 m => Sys2Proof.Machine.execPrefetcht1 m s
  | .prefetcht2 m => Sys2Proof.Machine.execPrefetcht2 m s
  | .clflush m => Sys2Proof.Machine.execClflush m s
  | .sfence => Sys2Proof.Machine.execSfence s
  | .lfence => Sys2Proof.Machine.execLfence s
  | .mfence => Sys2Proof.Machine.execMfence s
  | .pause => Sys2Proof.Machine.execPause s
  | .movdqa f => Sys2Proof.Machine.execMovdqa f s
  | .movdqu f => Sys2Proof.Machine.execMovdqu f s
  | .movq2dq d src => Sys2Proof.Machine.execMovq2dq d src s
  | .movdq2q d src => Sys2Proof.Machine.execMovdq2q d src s
  | .movaps f => Sys2Proof.Machine.execMovaps f s
  | .movups f => Sys2Proof.Machine.execMovups f s
  | .movapd f => Sys2Proof.Machine.execMovapd f s
  | .movupd f => Sys2Proof.Machine.execMovupd f s
  | .movss f => Sys2Proof.Machine.execMovss f s
  | .movsd f => Sys2Proof.Machine.execMovsd f s
  | .movlps f => Sys2Proof.Machine.execMovlps f s
  | .movhps f => Sys2Proof.Machine.execMovhps f s
  | .movlpd f => Sys2Proof.Machine.execMovlpd f s
  | .movhpd f => Sys2Proof.Machine.execMovhpd f s
  | .movhlps d src => Sys2Proof.Machine.execMovhlps d src s
  | .movlhps d src => Sys2Proof.Machine.execMovlhps d src s
  | .movmskps d src => Sys2Proof.Machine.execMovmskps d src s
  | .movmskpd d src => Sys2Proof.Machine.execMovmskpd d src s
  | .addps d src => Sys2Proof.Machine.execAddps d src s
  | .addpd d src => Sys2Proof.Machine.execAddpd d src s
  | .addss d src => Sys2Proof.Machine.execAddss d src s
  | .addsd d src => Sys2Proof.Machine.execAddsd d src s
  | .subps d src => Sys2Proof.Machine.execSubps d src s
  | .subpd d src => Sys2Proof.Machine.execSubpd d src s
  | .subss d src => Sys2Proof.Machine.execSubss d src s
  | .subsd d src => Sys2Proof.Machine.execSubsd d src s
  | .mulps d src => Sys2Proof.Machine.execMulps d src s
  | .mulpd d src => Sys2Proof.Machine.execMulpd d src s
  | .mulss d src => Sys2Proof.Machine.execMulss d src s
  | .mulsd d src => Sys2Proof.Machine.execMulsd d src s
  | .divps d src => Sys2Proof.Machine.execDivps d src s
  | .divpd d src => Sys2Proof.Machine.execDivpd d src s
  | .divss d src => Sys2Proof.Machine.execDivss d src s
  | .divsd d src => Sys2Proof.Machine.execDivsd d src s
  | .sqrtps d src => Sys2Proof.Machine.execSqrtps d src s
  | .sqrtpd d src => Sys2Proof.Machine.execSqrtpd d src s
  | .sqrtss d src => Sys2Proof.Machine.execSqrtss d src s
  | .sqrtsd d src => Sys2Proof.Machine.execSqrtsd d src s
  | .maxps d src => Sys2Proof.Machine.execMaxps d src s
  | .maxpd d src => Sys2Proof.Machine.execMaxpd d src s
  | .maxss d src => Sys2Proof.Machine.execMaxss d src s
  | .maxsd d src => Sys2Proof.Machine.execMaxsd d src s
  | .minps d src => Sys2Proof.Machine.execMinps d src s
  | .minpd d src => Sys2Proof.Machine.execMinpd d src s
  | .minss d src => Sys2Proof.Machine.execMinss d src s
  | .minsd d src => Sys2Proof.Machine.execMinsd d src s
  | .rcpps d src => Sys2Proof.Machine.execRcpps d src s
  | .rcpss d src => Sys2Proof.Machine.execRcpss d src s
  | .rsqrtps d src => Sys2Proof.Machine.execRsqrtps d src s
  | .rsqrtss d src => Sys2Proof.Machine.execRsqrtss d src s
  | .andps d src => Sys2Proof.Machine.execAndps d src s
  | .andpd d src => Sys2Proof.Machine.execAndpd d src s
  | .andnps d src => Sys2Proof.Machine.execAndnps d src s
  | .andnpd d src => Sys2Proof.Machine.execAndnpd d src s
  | .orps d src => Sys2Proof.Machine.execOrps d src s
  | .orpd d src => Sys2Proof.Machine.execOrpd d src s
  | .xorps d src => Sys2Proof.Machine.execXorps d src s
  | .xorpd d src => Sys2Proof.Machine.execXorpd d src s
  | .unpckhps d src => Sys2Proof.Machine.execUnpckhps d src s
  | .unpckhpd d src => Sys2Proof.Machine.execUnpckhpd d src s
  | .unpcklps d src => Sys2Proof.Machine.execUnpcklps d src s
  | .unpcklpd d src => Sys2Proof.Machine.execUnpcklpd d src s
  | .comiss d src => Sys2Proof.Machine.execComiss d src s
  | .comisd d src => Sys2Proof.Machine.execComisd d src s
  | .ucomiss d src => Sys2Proof.Machine.execUcomiss d src s
  | .ucomisd d src => Sys2Proof.Machine.execUcomisd d src s
  | .cmpps d src n => Sys2Proof.Machine.execCmpps d src n s
  | .cmppd d src n => Sys2Proof.Machine.execCmppd d src n s
  | .cmpss d src n => Sys2Proof.Machine.execCmpss d src n s
  | .cmpsd d src n => Sys2Proof.Machine.execCmpsd d src n s
  | .shufps d src n => Sys2Proof.Machine.execShufps d src n s
  | .shufpd d src n => Sys2Proof.Machine.execShufpd d src n s
  | .cvtpi2ps d src => Sys2Proof.Machine.execCvtpi2ps d src s
  | .cvtps2pi d src => Sys2Proof.Machine.execCvtps2pi d src s
  | .cvttps2pi d src => Sys2Proof.Machine.execCvttps2pi d src s
  | .cvtsi2ss d src => Sys2Proof.Machine.execCvtsi2ss d src s
  | .cvtss2si d src => Sys2Proof.Machine.execCvtss2si d src s
  | .cvttss2si d src => Sys2Proof.Machine.execCvttss2si d src s
  | .cvtpi2pd d src => Sys2Proof.Machine.execCvtpi2pd d src s
  | .cvtpd2pi d src => Sys2Proof.Machine.execCvtpd2pi d src s
  | .cvttpd2pi d src => Sys2Proof.Machine.execCvttpd2pi d src s
  | .cvtsi2sd d src => Sys2Proof.Machine.execCvtsi2sd d src s
  | .cvtsd2si d src => Sys2Proof.Machine.execCvtsd2si d src s
  | .cvttsd2si d src => Sys2Proof.Machine.execCvttsd2si d src s
  | .cvtpd2ps d src => Sys2Proof.Machine.execCvtpd2ps d src s
  | .cvtps2pd d src => Sys2Proof.Machine.execCvtps2pd d src s
  | .cvtsd2ss d src => Sys2Proof.Machine.execCvtsd2ss d src s
  | .cvtss2sd d src => Sys2Proof.Machine.execCvtss2sd d src s
  | .cvtpd2dq d src => Sys2Proof.Machine.execCvtpd2dq d src s
  | .cvttpd2dq d src => Sys2Proof.Machine.execCvttpd2dq d src s
  | .cvtdq2pd d src => Sys2Proof.Machine.execCvtdq2pd d src s
  | .cvtps2dq d src => Sys2Proof.Machine.execCvtps2dq d src s
  | .cvttps2dq d src => Sys2Proof.Machine.execCvttps2dq d src s
  | .cvtdq2ps d src => Sys2Proof.Machine.execCvtdq2ps d src s
  | .ldmxcsr m => Sys2Proof.Machine.execLdmxcsr m s
  | .stmxcsr m => Sys2Proof.Machine.execStmxcsr m s
  | .addsubpd d src => Sys2Proof.Machine.execAddsubpd d src s
  | .addsubps d src => Sys2Proof.Machine.execAddsubps d src s
  | .haddpd d src => Sys2Proof.Machine.execHaddpd d src s
  | .haddps d src => Sys2Proof.Machine.execHaddps d src s
  | .hsubpd d src => Sys2Proof.Machine.execHsubpd d src s
  | .hsubps d src => Sys2Proof.Machine.execHsubps d src s
  | .movddup d src => Sys2Proof.Machine.execMovddup d src s
  | .movshdup d src => Sys2Proof.Machine.execMovshdup d src s
  | .movsldup d src => Sys2Proof.Machine.execMovsldup d src s
  | .lddqu d m => Sys2Proof.Machine.execLddqu d m s

end Sys2Proof.Machine
end

