-- ==== Sys2Proof/Machine/Step.lean ====
section
/-! DEFINITION. One step (60 R1541): the delivery of one pending event, or one instruction with all its prefixes, or one
iteration of a repeated string instruction (92 D18; log 5). Noncomputable as the decoder it calls. -/
noncomputable section
namespace Sys2Proof.Machine

/-- The prefix bytes are instructions of their own that only change what the next bytes mean (log 4). -/
def isPrefix (i : Instr) : Bool :=
  match i with
  | .lock | .repne | .rep | .csOverride | .ssOverride | .dsOverride | .esOverride | .fsOverride | .gsOverride
  | .opSizeOverride | .addrSizeOverride => true
  | _ => false

/-- Read bytes until they decode; more than 15 in all is #GP(0) (30_encoding R302), no row is #UD (R380). -/
def fetchInstr (bs : List Byte) : Nat → M (Instr × Nat)
  | 0 => raiseGP 0
  | fuel + 1 => do
    let b ← fetchByte ((← ask (·.cur.len)) + bs.length)
    let s ← ask id
    match decode s.decodeCtx (bs ++ [b]) with
    | .ok i n => return (i, n)
    | .bad => badOpcode
    | .mixed => refuse .mixedPrefixes
    | .more => fetchInstr (bs ++ [b]) fuel

/-- Read and execute: prefixes, each with its meaning, until an instruction. -/
def runInstr (s : State) : Nat → Host.Outcome State Fault Refusal
  | 0 => fetchFault (.event { vector := 13, err := some 0 }) s s
  | fuel + 1 =>
    match fetchInstr [] (15 - s.cur.len) s with
    | .error h t => fetchFault h s t
    | .ok (i, n) t =>
      if isPrefix i then
        match exec i (t.addLen n) with
        | .next u => runInstr u fuel
        | o => o
      else exec i (t.addLen n)

/-- The instruction at the instruction pointer, after its breakpoints (60 R1541 steps 6 to 9). -/
def nextInstr (s : State) : Host.Outcome State Fault Refusal :=
  if s.codeBreaksBad then .refused .breakpointControls
  else if s.codeBreaks != 0 then
    if s.ssShadow then (if s.choose.1 then takeCodeBreak s.choose.2 else runInstr s.choose.2 16)
    else takeCodeBreak s
  else runInstr s 16

/-- An instruction boundary of a running processor (60 R1541). `holdSmi` and `holdNmi` say what the STI shadow holds off
(93 U20). The traps of MOV SS or POP SS wait while its shadow lasts (60 R1568); where the next instruction enters a
handler instead of completing, they are taken at the boundary before the handler's first instruction (DESIGN CHOICE,
log 7). -/
def boundary (holdSmi holdNmi : Bool) (s : State) : Host.Outcome State Fault Refusal :=
  if s.smiOpen && !holdSmi then takeSmi s
  else if s.initOpen then .next s.initCore
  else if s.flag fVM then .refused .virtual8086
  else if s.traps != 0 && !s.ssShadow then takeTraps s
  else if s.nmiOpen && !holdNmi then takeNmi s
  else if s.intOpen then takeInt s
  else nextInstr { s with activity := .running }

/-- The boundary, in the STI shadow with a free choice for SMI and one for NMI, each held off or not (43 R851, 93 U20). -/
def running (s : State) : Host.Outcome State Fault Refusal :=
  if s.stiShadow && (s.nmiOpen || s.smiOpen) then
    let (holdSmi, s) := s.choose
    let (holdNmi, s) := s.choose
    boundary holdSmi holdNmi s
  else boundary false false s

/-- What a step does by the execution state (10_state R175), RESET# and an unfinished delivery apart. -/
def actBy (s : State) : Host.Outcome State Fault Refusal :=
  match s.activity with
  | .running => running s
  | .halted => if s.wakes then running s else .next s
  | .mwait =>
    if s.wakes then running s.leaveMwait
    else if s.choose.1 then .next s.choose.2.leaveMwait
    else .next s.choose.2
  | .shutdown =>
    if s.initOpen then .next s.initCore
    else if s.nmiOpen then takeNmi s
    else .fault .shutdown
  | .waitForSipi =>
    if s.initOpen then .next s.initCore
    else match s.pending.sipi with
      | some v => .next (s.startUp v)
      | none => .fault .waitForSipi

/-- What a step does: RESET# comes before all else (60 R1541 step 1), then a delivery that the step before did not finish
(60 R1527; log 5). -/
def act (s : State) : Host.Outcome State Fault Refusal :=
  if s.pending.reset then .next s.hardReset
  else match s.redeliver with
    | some d => takeEvent d.event d.pc d.savedEip { s with redeliver := none }
    | none => actBy s

/-- One step; the thermal log bit is latched at every one (10_state R119). -/
def step (s : State) : Host.Outcome State Fault Refusal :=
  match act s with
  | .next t => .next t.latchThermal
  | .fault f => .fault f
  | .refused r => .refused r

/-- The state with the bytes of an instruction stored where `step` fetches next: from CS:EIP on, the bytes of
`wordBytes` (log 6). -/
def State.withFetchWord (s : State) (nbits w : Nat) : State :=
  match translateRange (s.cs.base + s.eip) 15 false (s.cpl == 3) s with
  | .ok addrs _ =>
    let cells := addrs.map s.cell
    { s with
      mem := (cells.zip (wordBytes nbits w)).foldl (fun m (a, b) => Memory.write m a b) s.mem
      adMarks := cells.foldl (fun m a => Memory.write m a 0) s.adMarks }
  | .error _ _ => s

end Sys2Proof.Machine

end
end

