-- ==== Sys2Proof/Safety.lean ====
section
/-! DEFINITION. What counts as a safe run, in the terms the statements use. -/
noncomputable section
namespace Sys2Proof.Machine

/-- What every step keeps: the canonical form of memory (20_memory R200), and of the marks on its bytes (R233). -/
def State.canonical (s : State) : Prop := Memory.wf s.mem = true ∧ Memory.wf s.adMarks = true

/-- Bits of EFLAGS that are fixed: bit 1 is 1; bits 3, 5, 15 and 31:22 are 0 (10_state R48). -/
def fixedFlags (v : Word32) : Prop := v &&& 0xFFC0802A = 2

/-- The fixed bits of EFLAGS, in the processor and in what SMM entry saved. -/
def State.flagsFixed (s : State) : Prop := fixedFlags s.eflags ∧ ∀ d ∈ s.smmDump, fixedFlags d.eflags

/-! ## The words of the statements -/

/-- A physical address (20_memory R200) outside the window of the interrupt messages and the page of the local APIC in it,
whose registers are no ordinary bytes (60 R1580, R1590). -/
def ordinary (a : Nat) : Prop := a < smramKey ∧ (a < 0xFEE00000 ∨ 0xFEEFFFFF < a)

/-- From s to t every ordinary byte outside `stored` reads as before, but that with paging on the translation of an
address may set the accessed and dirty flags of the entries it uses, bits 5 and 6 of a byte (20_memory R234). -/
def Kept (s t : State) (stored : List Nat) : Prop :=
  s.canonical → ∀ a, ordinary a → a ∉ stored →
    physRead8 t a = physRead8 s a ∨ (s.paging = true ∧ physRead8 t a &&& 0x9F = physRead8 s a &&& 0x9F)

/-- The state after an instruction that goes on to the next one, when its body leaves u. -/
def State.done (s u : State) : State := s.complete u false s.nextPc

/-- The LOCK prefix is absent, or `ok` says that it is allowed (20_memory R260). -/
def LockOk (s : State) (ok : Bool) : Prop := s.cur.lock = true → ok = true

/-- The value at a place. -/
def State.look (s : State) (sz : Sz) (l : Loc) : BitVec sz.bits :=
  match l with
  | .reg r => s.readReg sz r
  | .mem addrs => BitVec.ofNat sz.bits (physReadNat s addrs)

/-- The state with a value stored at a place. -/
def State.place (s : State) (sz : Sz) (l : Loc) (v : BitVec sz.bits) : State :=
  match l with
  | .reg r => s.writeReg sz r v
  | .mem addrs => physWriteNat s v.toNat addrs

/-- The addresses of the bytes of a place. -/
def Loc.bytes : Loc → List Nat
  | .reg _ => []
  | .mem addrs => addrs

/-- Run in s, the instruction completes, its body leaves u, and no byte of memory changes outside `stored`. -/
def Does (i : Instr) (s u : State) (stored : List Nat) : Prop :=
  exec i s = .next (s.done u) ∧ Kept s (s.done u) stored

/-- The state with other flags, after a number of draws. -/
def State.freed (u : State) (e : Word32) (d : Nat) : State := { u with eflags := e, draws := d }

/-- As `Does`, but that the flags `und` are undefined: free values, drawn one after the other. -/
def DoesUpTo (und : List Nat) (i : Instr) (s u : State) (stored : List Nat) : Prop :=
  ∃ e d, (und = [] → d = u.draws) ∧ (∀ k, k ∉ und → e.getLsbD k = u.eflags.getLsbD k) ∧ Does i s (u.freed e d) stored

/-- The state before an instruction with what its accesses to memory may change taken from t: every register, flag and
special register is that of s. -/
def State.having (s t : State) : State :=
  { s.begin with mem := t.mem, adMarks := t.adMarks, apic := t.apic, tlb := t.tlb, draws := t.draws, traps := t.traps }

/-- The step completes: no fault of the model, no refusal. -/
def Completes (s : State) : Prop := ∃ t, step s = .next t

/-- n steps from s reach t. -/
inductive Reaches : State → Nat → State → Prop
  | refl (s : State) : Reaches s 0 s
  | next {s t u : State} {n : Nat} : step s = .next t → Reaches t n u → Reaches s (n + 1) u

/-- A run of n steps from s is safe: none of its states stops. -/
def SafeRun (s : State) (n : Nat) : Prop := ∀ k t, k < n → Reaches s k t → Completes t

end Sys2Proof.Machine

end
end

