-- ==== Sys2Proof/Certificates/Slice0/Obligations.lean ====
section
/-! DEFINITION. The statements for the provers. `Claims` holds the shapes they share; a statement's docstring names the
rules of the spec it formalises. -/
noncomputable section
namespace Sys2Proof.Claims
open Machine

/-! ## Shapes of statements about one instruction

In all of them u is the state before the instruction but for what its memory accesses change (`State.having`): the
registers, flags and special registers that a conclusion does not name keep the values of s. -/

/-- The instruction completes: with LOCK absent or allowed, its accesses succeeding with the answer a, and `ok` of u and
a holding, it goes on to the next instruction and leaves `after`; the flags `und` are undefined, and no byte of memory
outside `stored` changes. -/
def When {α : Type} (i : Instr) (lock : Bool) (access : State → M α) (ok : State → α → Bool) (after : State → α → State)
    (und : State → α → List Nat := fun _ _ => []) (stored : State → α → List Nat := fun _ _ => []) : Prop :=
  ∀ s a t, LockOk s lock → access s.begin s.begin = .ok a t → ok (s.having t) a = true →
    DoesUpTo (und (s.having t) a) i s (after (s.having t) a) (stored (s.having t) a)

/-- As `When`, but that what is left depends on a value the manual leaves open. -/
def WhenOpen {α β : Type} (i : Instr) (access : State → M α) (ok : State → α → Bool) (after : State → α → β → State)
    (und : State → α → List Nat := fun _ _ => []) (stored : State → α → List Nat := fun _ _ => []) : Prop :=
  ∀ s a t, LockOk s false → access s.begin s.begin = .ok a t → ok (s.having t) a = true →
    ∃ v d, DoesUpTo (und (s.having t) a) i s { after (s.having t) a v with draws := d } (stored (s.having t) a)

/-- The instruction raises an exception and goes to its handler: its accesses succeed with the answer a, and `ok` of u and
a holds. The saved instruction pointer is the instruction's own, for a software interrupt the next one's; a trap that the shadow of
MOV SS holds is kept (log 7). -/
def TrapsBy {α : Type} (i : Instr) (access : State → M α) (ok : State → α → Bool) (e : α → Event) : Prop :=
  ∀ s a t, LockOk s false → access s.begin s.begin = .ok a t → ok (s.having t) a = true →
    exec i s = takeEvent (e a) s.eip (s.savedEip (e a).kind) (s.forEvent t (e a).kind)

def Traps {α : Type} (i : Instr) (access : State → M α) (ok : State → α → Bool) (e : Event) : Prop :=
  TrapsBy i access ok fun _ => e

/-- No access, no condition. -/
def nothing : State → M Unit := fun _ => return ()
def always {α : Type} : State → α → Bool := fun _ _ => true

/-- The instruction reads and writes one register-or-memory operand: its place gets `res` of the old value, and the rest
becomes what `flags` says, the flags `und` left open. -/
def Changes (i : Instr) (lock : Bool) (und : List Nat) (size : State → Sz) (x : Rm)
    (res : (sz : Sz) → State → BitVec sz.bits → BitVec sz.bits)
    (flags : (sz : Sz) → State → BitVec sz.bits → State) : Prop :=
  ∀ sz, When i lock (fun _ => locate sz x true) (fun u _ => size u == sz)
    (fun u l => (flags sz u (u.look sz l)).place sz l (res sz u (u.look sz l)))
    (und := fun _ _ => und) (stored := fun _ l => l.bytes)

/-- The instruction writes one register-or-memory operand of a width. -/
def Writes (i : Instr) (size : State → Sz) (x : Rm) (res : (sz : Sz) → State → BitVec sz.bits) : Prop :=
  ∀ sz, When i false (fun _ => locate sz x true) (fun u _ => size u == sz) (fun u l => u.place sz l (res sz u))
    (stored := fun _ l => l.bytes)

/-- The instruction reads one register-or-memory operand of a width, and `after` of it is left. -/
def Reads (i : Instr) (und : List Nat) (size : State → Sz) (x : Rm)
    (after : (sz : Sz) → State → BitVec sz.bits → State) : Prop :=
  ∀ sz, When i false (fun _ => readRm sz x) (fun u _ => size u == sz) (after sz) (und := fun _ _ => und)

/-- The instruction accesses no memory: in every state it leaves `after`. -/
def Acts (i : Instr) (und : List Nat) (after : State → State) : Prop :=
  When i false nothing always (fun u _ => after u) (und := fun _ _ => und)

/-- A two-operand instruction that stores its result, in all its forms. -/
def AluStores (mk : AluForm → Instr) (und : List Nat)
    (res : (sz : Sz) → BitVec sz.bits → BitVec sz.bits → Bool → BitVec sz.bits)
    (flags : (sz : Sz) → State → BitVec sz.bits → BitVec sz.bits → Bool → State) : Prop :=
  (∀ w x r, Changes (mk (.rmReg w x r)) (lockable x) und (·.wsz w) x
    (fun sz u a => res sz a (u.readReg sz r) (u.flag fCF)) (fun sz u a => flags sz u a (u.readReg sz r) (u.flag fCF))) ∧
  (∀ k w x i, Changes (mk (.rmImm k w x i)) (lockable x) und (·.wsz w) x
    (fun sz u a => res sz a (immVal sz i) (u.flag fCF)) (fun sz u a => flags sz u a (immVal sz i) (u.flag fCF))) ∧
  (∀ w r x, Reads (mk (.regRm w r x)) und (·.wsz w) x fun sz u b =>
    (flags sz u (u.readReg sz r) b (u.flag fCF)).writeReg sz r (res sz (u.readReg sz r) b (u.flag fCF))) ∧
  (∀ i, Acts (mk (.accImm i)) und fun u =>
    let sz := immSz i
    let a := u.readReg sz rAX
    let b := immVal sz i
    (flags sz u a b (u.flag fCF)).writeReg sz rAX (res sz a b (u.flag fCF)))

/-- The flags of a logical result: CF and OF cleared. -/
def logical {w : Nat} (u : State) (r : BitVec w) : State := ((u.setFlag fCF false).setFlag fOF false).resultFlags r

/-- A one-operand instruction in both widths. -/
def Unary (mk : Bool → Rm → Instr) (res : (sz : Sz) → BitVec sz.bits → BitVec sz.bits)
    (flags : (sz : Sz) → State → BitVec sz.bits → State) : Prop :=
  ∀ w x, Changes (mk w x) (lockable x) [] (·.wsz w) x (fun sz _ a => res sz a) flags

/-! Shifts -/

def shiftRm : ShiftForm → Bool × Rm
  | .one w x => (w, x) | .cl w x => (w, x) | .imm w x _ => (w, x)

/-- The count, masked to five bits (40 R490). -/
def shiftCount (s : State) : ShiftForm → Nat
  | .one _ _ => 1
  | .cl _ _ => (s.readReg .b rCX).toNat % 32
  | .imm _ _ n => n.toNat % 32

/-- A shift or rotate in all its forms: a count of 0 changes nothing, its place checked as a write but not marked dirty
(20_memory R234); else the place gets `res` of the carry flag, the old
value and the count, CF becomes `carry` of the three where it is defined, and OF `ovf` where the count is 1. -/
def Shifts (mk : ShiftForm → Instr) (full : Bool)
    (res : (sz : Sz) → Bool → BitVec sz.bits → Nat → BitVec sz.bits)
    (carry : (sz : Sz) → Bool → BitVec sz.bits → Nat → Option Bool)
    (ovf : (sz : Sz) → Bool → BitVec sz.bits → Bool) : Prop :=
  ∀ f sz, When (mk f) false (fun u => target sz (shiftRm f).2 (shiftCount u f != 0)) (fun u _ => u.wsz (shiftRm f).1 == sz)
    (fun u l =>
      let a := u.look sz l
      let cf := u.flag fCF
      let c := shiftCount u f
      let r := res sz cf a c
      let g := (u.setFlag fCF ((carry sz cf a c).getD false)).setFlag fOF (ovf sz cf a)
      if c = 0 then u else (if full then g.resultFlags r else g).place sz l r)
    (und := fun u l =>
      let c := shiftCount u f
      if c = 0 then [] else
        (if full then [fAF] else []) ++ (if c = 1 then [] else [fOF])
          ++ (if (carry sz (u.flag fCF) (u.look sz l) c).isSome then [] else [fCF]))
    (stored := fun u l => if shiftCount u f = 0 then [] else l.bytes)

def dblOp : DblForm → Rm × RegNum
  | .imm x r _ => (x, r) | .cl x r => (x, r)

def dblCount (u : State) : DblForm → Nat
  | .imm _ _ n => n.toNat % 32
  | .cl _ _ => (u.readReg .b rCX).toNat % 32

/-- A double shift (40 R498, R499) in both forms; a count above the operand size leaves everything open. -/
def DoubleShifts (mk : DblForm → Instr) (res : (sz : Sz) → BitVec sz.bits → BitVec sz.bits → Nat → BitVec sz.bits)
    (carry : (sz : Sz) → BitVec sz.bits → Nat → Bool) : Prop :=
  ∀ f sz,
    When (mk f) false (fun u => target sz (dblOp f).1 (dblCount u f != 0)) (fun u _ => u.osz == sz && dblCount u f ≤ sz.bits)
      (fun u l =>
        let a := u.look sz l
        let c := dblCount u f
        let v := res sz a (u.readReg sz (dblOp f).2) c
        if c = 0 then u
        else (((u.setFlag fCF (carry sz a c)).setFlag fOF (v.msb != a.msb)).resultFlags v).place sz l v)
      (und := fun u _ => if dblCount u f = 0 then [] else if dblCount u f = 1 then [fAF] else [fAF, fOF])
      (stored := fun u l => if dblCount u f = 0 then [] else l.bytes) ∧
    WhenOpen (mk f) (fun u => target sz (dblOp f).1 (dblCount u f != 0)) (fun u _ => u.osz == sz && sz.bits < dblCount u f)
      (fun u l v => u.place sz l v) (und := fun _ _ => [fCF, fPF, fAF, fZF, fSF, fOF]) (stored := fun _ l => l.bytes)

/-- Where a bit instruction finds its bit (40 R510): a register bit offset reaches beyond a memory operand, a signed
number of words away. -/
def bitAt (sz : Sz) (f : BitForm) (write : Bool) (u : State) : M (Loc × Nat) :=
  match f with
  | .imm x n => do return (← locate sz x write, n.toNat % sz.bits)
  | .reg (.reg b) r => return (.reg b, (u.readReg sz r).toNat % sz.bits)
  | .reg (.mem m) r => do
    let off := u.readReg sz r
    let as ← dataAddrs (u.memSeg m) (u.maskAs (u.ea m + BitVec.ofInt 32 ((off.toInt / sz.bits) * sz.bytes))) sz.bytes write
    return (.mem as, off.toNat % sz.bits)

/-- A bit instruction in its forms (40 R510): CF gets the bit, and where `new` is given the place gets its value. -/
def BitTests (mk : BitForm → Instr) (new : Option ((w : Nat) → BitVec w → Nat → BitVec w)) : Prop :=
  ∀ f sz, When (mk f) (new.isSome && bitLock f) (bitAt sz f new.isSome) (fun u _ => u.osz == sz)
    (fun u p =>
      let a := u.look sz p.1
      let g := u.setFlag fCF (a.getLsbD p.2)
      match new with
      | none => g
      | some n => g.place sz p.1 (n _ a p.2))
    (und := fun _ _ => [fOF, fSF, fAF, fPF]) (stored := fun _ p => if new.isSome then p.1.bytes else [])

/-- The number of the bit that `best` prefers among the set ones. -/
def bestBit {w : Nat} (v : BitVec w) (best : Nat → Nat → Nat) : Nat :=
  ((List.range w).filter (v.getLsbD ·)).foldl best (((List.range w).filter (v.getLsbD ·)).headD 0)

/-- A bit scan. -/
def BitScan (mk : RegNum → Rm → Instr) (best : Nat → Nat → Nat) : Prop :=
  ∀ r x sz,
    When (mk r x) false (fun _ => readRm sz x) (fun u v => u.osz == sz && v != 0)
      (fun u v => (u.setFlag fZF false).writeReg sz r (BitVec.ofNat _ (bestBit v best)))
      (und := fun _ _ => [fCF, fOF, fSF, fAF, fPF]) ∧
    WhenOpen (mk r x) (fun _ => readRm sz x) (fun u v => u.osz == sz && v == 0)
      (fun u _ k => (u.setFlag fZF true).writeReg sz r k) (und := fun _ _ => [fCF, fOF, fSF, fAF, fPF])

/-- Quotient and remainder at their places (40 R484). -/
def quotRem (u : State) (sz : Sz) (q r : Int) : State :=
  match sz with
  | .b => (u.writeReg .b rAX (BitVec.ofInt 8 q)).writeReg .b rAH (BitVec.ofInt 8 r)
  | .w => (u.writeReg .w rAX (BitVec.ofInt 16 q)).writeReg .w rDX (BitVec.ofInt 16 r)
  | .d => (u.writeReg .d rAX (BitVec.ofInt 32 q)).writeReg .d rDX (BitVec.ofInt 32 r)

/-- A division of the double-width accumulator by an operand: `num` reads both, `fits` says that a quotient fits. -/
def Divides (mk : Bool → Rm → Instr) (num : (w : Nat) → BitVec w → Int) (fits : Nat → Int → Bool) : Prop :=
  let good (sz : Sz) (u : State) (v : BitVec sz.bits) : Bool :=
    num sz.bits v != 0 && fits sz.bits ((num (2 * sz.bits) ((u.wide sz).setWidth (2 * sz.bits))).tdiv (num sz.bits v))
  ∀ w x sz,
    When (mk w x) false (fun _ => readRm sz x) (fun u v => u.wsz w == sz && good sz u v)
      (fun u v =>
        let n := num (2 * sz.bits) ((u.wide sz).setWidth (2 * sz.bits))
        quotRem u sz (n.tdiv (num sz.bits v)) (n.tmod (num sz.bits v)))
      (und := fun _ _ => [fCF, fPF, fAF, fZF, fSF, fOF]) ∧
    Traps (mk w x) (fun _ => readRm sz x) (fun u v => u.wsz w == sz && !good sz u v) { vector := 0 }

/-- As `When`, for an instruction that says where it goes on and whether RF is kept; where `whole` is false the statement
about memory is made only with paging off. -/
def Leaves {α : Type} (i : Instr) (access : State → M α) (ok : State → α → Bool) (after : State → α → State)
    (eip : State → α → Word32 := fun u _ => u.nextPc) (stored : State → α → List Nat := fun _ _ => [])
    (keepRf : Bool := false) (whole : Bool := true) : Prop :=
  ∀ s a t, LockOk s false → access s.begin s.begin = .ok a t → ok (s.having t) a = true →
    let next := s.complete (after (s.having t) a) keepRf (eip (s.having t) a)
    exec i s = .next next ∧ (whole = true ∨ s.paging = false → Kept s next (stored (s.having t) a))

/-- The instruction takes an exception that can be delivered: it is at the handler, the transfer recorded as a branch. -/
def Enters {α : Type} (i : Instr) (access : State → M α) (ok : State → α → Bool) (e : Event) : Prop :=
  ∀ s a t w, LockOk s false → access s.begin s.begin = .ok a t → ok (s.having t) a = true →
    deliver e (s.savedEip e.kind) (e.note (s.forEvent t e.kind)) = .ok () w →
    exec i s = .next (w.recordBranch (s.cs.base + s.eip) (w.cs.base + w.eip))

/-- The instruction shuts the processor down. -/
def ShutsDown {α : Type} (i : Instr) (access : State → M α) (ok : State → α → Bool) : Prop :=
  ∀ s a t, LockOk s false → access s.begin s.begin = .ok a t → ok (s.having t) a = true →
    exec i s = .next (s.forEvent t .fault).enterShutdown

/-! ## Segment registers and the stack -/

/-- The byte of a selector's descriptor that holds its accessed or busy bit, with paging off. -/
def descByte (u : State) (sel : Word16) : List Nat :=
  if u.pe then (match u.descAddr sel with | some a => [(a + 5).toNat] | none => []) else []

/-- A segment register loaded: SS starts the inhibit of one instruction. -/
def segLoaded (u : State) (sr : Seg) (g : SegReg) : State :=
  if sr = .ss then { u.setSeg g sr with ssShadow := true } else u.setSeg g sr

/-- The instructions that load a segment register and a general one from a far pointer. -/
def FarLoads (mk : RegNum → MemRef → Instr) (sr : Seg) : Prop :=
  ∀ r m sz, Leaves (mk r m)
    (fun _ => do
      let off ← readMem sz.bits m
      let sel ← readMemPlus 16 m (BitVec.ofNat 32 sz.bytes)
      return (off, sel, ← newSeg sr sel))
    (fun u _ => u.osz == sz) (fun u (off, _, g) => (segLoaded u sr g).writeReg sz r off)
    (stored := fun u (_, sel, _) => descByte u sel) (whole := false)

def withEsp (u : State) (v : Word32) : State := { u with gpr := { u.gpr with r4 := v } }

/-- The stack pointer n bytes up or down. -/
def espUp (u : State) (n : Nat) : Word32 := u.espPlus (BitVec.ofNat 32 n)
def espDown (u : State) (n : Nat) : Word32 := u.espPlus (-(BitVec.ofNat 32 n))

/-- The slot of a push of the operand size; a push in real-address mode with SP = 1 has none (41 R620). -/
def pushSlot (u : State) : M (List Nat) := do
  checkPushWrap (u.stackOff u.esp)
  dataAddrs .ss (u.stackOff (espDown u u.osz.bytes)) u.osz.bytes true

/-- A value pushed. -/
def pushed (u : State) (v : Nat) (as : List Nat) : State := withEsp (physWriteNat u v as) (espDown u u.osz.bytes)

/-- Values written to slots in turn. -/
def writeAll (u : State) (vals : List Nat) (slots : List (List Nat)) : State :=
  (vals.zip slots).foldl (fun u p => physWriteNat u p.1 p.2) u

/-- The real-address-mode stack pointer that a push cannot start from. -/
def spOne (u : State) : Bool := !u.pe && u.stackOff u.esp == 1

/-- The bits of EFLAGS that POPF and IRET load (41 R631, 42 R753). -/
def loadsBit (u : State) (iret : Bool) (k : Nat) : Bool :=
  [0, 2, 4, 6, 7, 8, 10, 11, 14].contains k || (k == 9 && u.cpl ≤ u.iopl) || ((k == 12 || k == 13) && u.cpl == 0)
    || ((k == 18 || k == 21) && u.os32) || (k == 16 && u.os32 && iret)
    || ((k == 19 || k == 20) && u.os32 && iret && u.pe && u.cpl == 0)

/-- EFLAGS with those bits taken from an image. -/
def flagsFrom (u : State) (iret : Bool) (image : Word32) : Word32 :=
  (BitVec.ofBoolListLE ((List.range 32).map fun k =>
    if loadsBit u iret k then image.getLsbD k else u.eflags.getLsbD k)).setWidth 32

/-! ## Strings -/

/-- A string instruction (41 R660 to R680): alone it is one iteration; with a repeat prefix a count of 0 makes none, and
else each step makes one, counts it off, and stays at the instruction until the count or, for comparisons, ZF ends it. -/
def Repeats {α : Type} (i : Instr) (compares : Bool) (access : State → M α) (ok : State → α → Bool) (after : State → α → State)
    (stored : State → α → List Nat := fun _ _ => []) : Prop :=
  let counted (u : State) (a : α) : State := (after u a).setAsReg rCX ((after u a).asReg rCX - 1)
  let last (u : State) (a : α) : Bool :=
    (counted u a).asReg rCX == 0 || (compares && (counted u a).flag fZF != u.cur.rep.getD false)
  Leaves i access (fun u a => ok u a && u.cur.rep.isNone) after (stored := stored) ∧
  Leaves i nothing (fun u _ => u.cur.rep.isSome && u.asReg rCX == 0) (fun u _ => u) ∧
  Leaves i access (fun u a => ok u a && u.cur.rep.isSome && u.asReg rCX != 0)
    (fun u a => if last u a then counted u a else { counted u a with repBusy := true })
    (eip := fun u a => if last u a then u.nextPc else u.eip) (stored := stored)

/-- An index register moved past an element by DF (41 R660), as wide as the address size. -/
def stepped (u : State) (r : RegNum) (n : Nat) : State :=
  let v := if u.flag fDF then u.reg32 r - BitVec.ofNat 32 n else u.reg32 r + BitVec.ofNat 32 n
  if u.as32 then u.writeReg .d r v else u.writeReg .w r (v.setWidth 16)

/-- The source and the destination of a string instruction. -/
def srcAt (sz : Sz) (u : State) : M (BitVec sz.bits) := loadMem sz.bits (u.cur.seg.getD .ds) (u.asReg rSI)
def dstAt (sz : Sz) (u : State) (write : Bool) : M (List Nat) := dataAddrs .es (u.asReg rDI) sz.bytes write

/-- An I/O instruction that ran in u and leaves t remembered for SMM entry (60 R1605, R1606; log 8). -/
def ioDone (u t : State) (port : Word16) (typ : BitVec 4) (n : Nat) (before after : Word32) : State :=
  { t with lastIo := some {
      start := { eip := u.eip, ecx := u.reg32 rCX, esi := u.reg32 rSI, edi := u.reg32 rDI }
      port, typ, len := BitVec.ofNat 3 n, addrBefore := before, addrAfter := after } }

/-- What the ports from `port` on answer to the read number k, the first byte lowest; FFFFH is followed by 0 (log 12). -/
def portIn (sz : Sz) (port : Word16) (k : Nat) : BitVec sz.bits :=
  BitVec.ofNat _ ((List.range sz.bytes).foldr (fun j n => (Config.platformIo (port + BitVec.ofNat 16 j) k).toNat + 256 * n) 0)

/-- A value written to a port. -/
def portOut (u : State) (port : Word16) (sz : Sz) (v : BitVec sz.bits) : State :=
  { u with ioOut := u.ioOut ++ [{ port, bytes := sz.bytes, value := v.setWidth 32 }] }

/-! ## Transfers -/

/-- A taken branch recorded where it goes (10_state R126). -/
def branched (u : State) (base target : Word32) : State := u.recordBranch (u.cs.base + u.eip) (base + target)

/-- An offset as wide as the operand size. -/
def cutOs (u : State) (v : Word32) : Word32 := if u.os32 then v else v &&& 0xFFFF

/-- A near transfer (42 R720): the target must lie inside the code segment, else #GP(0). -/
def Jumps {α : Type} (i : Instr) (access : State → M α) (ok : State → α → Bool) (target : State → α → Word32)
    (after : State → α → State := fun u _ => u) (stored : State → α → List Nat := fun _ _ => []) : Prop :=
  Leaves i access (fun u a => ok u a && u.inLimit u.cs (target u a) 1)
    (fun u a => branched (after u a) u.cs.base (target u a)) (eip := target) (stored := stored) ∧
  Traps i access (fun u a => ok u a && !u.inLimit u.cs (target u a) 1) { vector := 13, err := some 0 }

/-- A conditional near transfer relative to the next instruction. -/
def Branches (i : Instr) (cond : State → Bool) (d : Imm) (after : State → State := fun u => u) : Prop :=
  Jumps i nothing (fun u _ => cond u) (fun u _ => cutOs u (u.nextPc + BitVec.ofInt 32 (relVal d).toInt)) (fun u _ => after u) ∧
  Leaves i nothing (fun u _ => !cond u) (fun u _ => after u)

/-- (E)CX counted down. -/
def countDown (u : State) : State := u.setAsReg rCX (u.asReg rCX - 1)
def count (u : State) : Word32 := if u.as32 then u.reg32 rCX else u.reg32 rCX &&& 0xFFFF

/-- A far transfer's slots and its new code segment, in protected mode. -/
def farEntered (u : State) (cs : SegReg) (off : Word32) : State := { branched u cs.base off with cs }

/-- The segment registers and the stack of an outer privilege level (42 R743): a data segment the level may not use
becomes null. -/
def outer (u : State) (cs ss : SegReg) (esp : Word32) : State :=
  let cpl := selRpl cs.sel
  let keep (r : SegReg) : SegReg := if r.p && !r.conforming && r.dpl < cpl then nullSeg 0 else r
  { u with cpl, cs, ss, gpr := { u.gpr with r4 := esp }, ds := keep u.ds, es := keep u.es, fs := keep u.fs, gs := keep u.gs }

/-- A flat segment (42 R770). -/
def flat4G (sel : Word16) (typ : BitVec 4) (dpl : BitVec 2) : SegReg :=
  { sel, base := 0, limit := 0xFFFFFFFF, typ, s := true, dpl, p := true, db := true, g := true }

/-- A far pointer on the stack: offset and selector. -/
def popFar (u : State) : M (Word32 × Word16) := do
  let off ← peek u.osz.bytes 0
  return (off, (← peek u.osz.bytes u.osz.bytes).setWidth 16)

/-- What a far return to a far pointer reads in protected mode (42 R743): the new CS, and for an outer level the new stack,
`skip` bytes beyond; the descriptors are marked accessed when every check has passed. -/
def returnAccess (skip : Nat) (u : State) (dest : Word32 × Word16) : M (Word32 × SegReg × Option (SegReg × Word32)) := do
  let n := u.osz.bytes
  let (off, sel) := dest
  if selRpl sel = u.cpl then return (off, ← useDesc sel (← returnDesc sel off), none)
  else
    let esp ← peek n (2 * n + skip)
    let ssSel : Word16 := (← peek n (3 * n + skip)).setWidth 16
    let code ← returnDesc sel off
    let stack ← stackDesc ssSel (selRpl sel)
    let cs ← useDesc sel code
    return (off, cs, some (← useDesc ssSel stack, esp))

/-- What it leaves: `drop` bytes released from an outer stack. -/
def returned (u : State) (skip drop : Nat) (cs : SegReg) (stack : Option (SegReg × Word32)) : State :=
  match stack with
  | none => { withEsp u (espUp u (2 * u.osz.bytes + skip)) with cs }
  | some (ss, esp) =>
    let cut (old v : Word32) : Word32 := if ss.db then v else old.extractLsb' 16 16 ++ v.setWidth 16
    let base := cut u.esp esp
    outer u cs ss (cut base (base + BitVec.ofNat 32 drop))

def returnBytes (u : State) (r : Word32 × SegReg × Option (SegReg × Word32)) : List Nat :=
  descByte u r.2.1.sel ++ (match r.2.2 with | some (ss, _) => descByte u ss.sel | none => [])

/-- The descriptor checks of a far transfer to a code segment (42 R721, R743): a null selector, one outside its table, a
descriptor whose type `stop` stops on or that is no code, one that privilege does not allow (`good`), one not present, an
offset beyond the limit; and `answer` for the descriptor read at an address in a state, where all pass. -/
def ChecksCode {α : Type} (find : Word16 → Word32 → M α) (stop : BitVec 4 → Option Refusal)
    (good : State → Word16 → SegReg → Bool) (answer : Word16 → Word32 → Word64 → State → EStateM.Result Halt State α → Prop) :
    Prop :=
  ∀ (sel : Word16) (off : Word32) (s : State),
    let gp (err : Word32) (t : State) : Prop := find sel off s = .error (.event { vector := 13, err := some err }) t
    (isNull sel = true → gp 0 s) ∧
    (isNull sel = false → s.descAddr sel = none → gp (selErr sel) s) ∧
    (∀ a n t, isNull sel = false → s.descAddr sel = some a → sysRead a 8 s = .ok n t →
      let d := BitVec.ofNat 64 n
      let r := segOfDesc sel d
      (r.s = false →
        (∀ x, stop r.typ = some x → find sel off s = .error (.refused x) t) ∧ (stop r.typ = none → gp (selErr sel) t)) ∧
      (r.s = true → r.typ.getLsbD 3 = false → gp (selErr sel) t) ∧
      (r.s = true → r.typ.getLsbD 3 = true →
        (good t sel r = false → gp (selErr sel) t) ∧
        (good t sel r = true →
          (r.p = false → find sel off s = .error (.event { vector := 11, err := some (selErr sel) }) t) ∧
          (r.p = true → r.limit < off → gp 0 t) ∧
          (r.p = true → off ≤ r.limit → answer sel a d t (find sel off s)))))

/-! ## System -/

/-- Privilege level 0, or real-address mode (43 R800). -/
def privOk (u : State) : Bool := !u.pe || u.cpl == 0

/-- #GP(0) above privilege level 0, whatever the operand. -/
def Privileged (i : Instr) : Prop := Traps i nothing (fun u _ => !privOk u) { vector := 13, err := some 0 }
/-- #UD in real-address mode, whatever the operand. -/
def ProtectedOnly (i : Instr) : Prop := Traps i nothing (fun u _ => !u.pe) { vector := 6 }

def statusFlags : List Nat := [fCF, fPF, fAF, fZF, fSF, fOF]

/-- A word with chosen bits of v, and the bits `ones` set. -/
def bitsOf (v : Word32) (from_ ones : List Nat) : Word32 :=
  (BitVec.ofBoolListLE ((List.range 32).map fun k => ones.contains k || (from_.contains k && v.getLsbD k))).setWidth 32

def crKnown (n : RegNum) : Bool := n == 0 || n == 2 || n == 3 || n == 4
def crValue (u : State) (n : RegNum) : Word32 :=
  if n = 0 then u.cr0 else if n = 2 then u.cr2 else if n = 3 then u.cr3 else u.cr4

/-- A reserved bit in a present page-directory-pointer-table entry (20_memory R221). -/
def pdpteReserved (p : Word64) : Bool :=
  p.getLsbD 0 && ((p.getLsbD 1 || p.getLsbD 2) || (p.extractLsb' 5 4 != 0 || p.extractLsb' 36 28 != 0))

/-- The four entries CR3 points to, loaded by an instruction (20_memory R228), or none if one has a reserved bit set. -/
def pdptesAt (u : State) : Option (Word64 × Word64 × Word64 × Word64) :=
  let p (k : Nat) : Word64 := physRead64 u ((u.cr3 &&& 0xFFFFFFE0).toNat + 8 * k)
  if pdpteReserved (p 0) || pdpteReserved (p 1) || pdpteReserved (p 2) || pdpteReserved (p 3) then none
  else some (p 0, p 1, p 2, p 3)

/-- A control register written, where that is allowed (43 R810; 20_memory R240). -/
def crWrite (u : State) (n : RegNum) (v : Word32) : Option State :=
  if n = 0 then
    let pg := v.getLsbD 31
    if (pg && !v.getLsbD 0) || (v.getLsbD 29 && !v.getLsbD 30) then none
    else
      let t := { u with cr0 := bitsOf v [0, 1, 2, 3, 5, 16, 18, 29, 30, 31] [4] }
      let t := if pg != u.paging || v.getLsbD 0 != u.pe then { t with tlb := [] } else t
      if !pg then some { t with pdpte := none }
      else if !u.paging && u.pae then (pdptesAt u).map fun p => { t with pdpte := some p }
      else some t
  else if n = 2 then some { u with cr2 := v }
  else if n = 3 then
    let t := { u with cr3 := bitsOf v (if u.pae then (List.range 32).drop 3 else [3, 4] ++ (List.range 32).drop 12) []
                      tlb := u.tlb.filter (·.global) }
    if u.paging && u.pae then (pdptesAt t).map fun p => { t with pdpte := some p } else some t
  else if v.toNat / 2 ^ 11 ≠ 0 then none
  else
    let changed (k : Nat) : Bool := v.getLsbD k != u.cr4.getLsbD k
    let t := { u with cr4 := v, pdpte := if v.getLsbD 5 then u.pdpte else none }
    some (if changed 4 || changed 5 || changed 7 then { t with tlb := [] } else t)

/-- The debug register a number names (10_state R80). -/
def drOf (u : State) (n : RegNum) : Option Nat :=
  if n.toNat = 4 ∨ n.toNat = 5 then (if u.cr4.getLsbD 3 then none else some (n.toNat + 2)) else some n.toNat

def drValue (u : State) (k : Nat) : Word32 :=
  if k = 0 then u.dr0 else if k = 1 then u.dr1 else if k = 2 then u.dr2 else if k = 3 then u.dr3 else if k = 6 then u.dr6 else u.dr7

def drWrite (u : State) (k : Nat) (v : Word32) : State :=
  if k = 0 then { u with dr0 := v } else if k = 1 then { u with dr1 := v } else if k = 2 then { u with dr2 := v }
  else if k = 3 then { u with dr3 := v }
  else if k = 6 then { u with dr6 := bitsOf v [0, 1, 2, 3, 13, 14, 15] ([4, 5, 6, 7, 8, 9, 10, 11] ++ (List.range 32).drop 16) }
  else { u with dr7 := bitsOf v ([0, 1, 2, 3, 4, 5, 6, 7, 8, 9, 13] ++ (List.range 32).drop 16) [10] }

/-- The two parts of a pseudo-descriptor in memory. -/
def pseudoSlots (m : MemRef) (u : State) : M (List Nat × List Nat) := do
  let lo ← dataAddrs (u.memSeg m) (u.ea m) 2 true
  return (lo, ← dataAddrs (u.memSeg m) (u.maskAs (u.ea m + 2)) 4 true)

/-- SGDT and SIDT: with a 16-bit operand size the last byte is open (43 R817, R818). -/
def StoresTable (mk : MemRef → Instr) (reg : State → TableReg) : Prop :=
  ∀ m,
    When (mk m) false (pseudoSlots m) (fun u _ => u.os32)
      (fun u p => physWriteNat (physWriteNat u (reg u).limit.toNat p.1) (reg u).base.toNat p.2)
      (stored := fun _ p => p.1 ++ p.2) ∧
    WhenOpen (mk m) (pseudoSlots m) (fun u _ => !u.os32)
      (fun u p (v : Byte) =>
        physWriteNat (physWriteNat u (reg u).limit.toNat p.1) (v ++ (reg u).base.extractLsb' 0 24).toNat p.2)
      (stored := fun _ p => p.1 ++ p.2)

/-- LGDT and LIDT: with a 16-bit operand size 24 bits of base (43 R815, R816). -/
def LoadsTable (mk : MemRef → Instr) (set : State → TableReg → State) : Prop :=
  ∀ m, Privileged (mk m) ∧
    When (mk m) false
      (fun _ => do
        let limit : Word16 ← readMem 16 m
        let base : Word32 ← readMemPlus 32 m 2
        return (limit, base))
      (fun u _ => privOk u)
      (fun u p => set u { limit := p.1, base := if u.os32 then p.2 else (p.2.setWidth 24).setWidth 32 })

/-- SLDT and STR (43 R820, R822). -/
def StoresSelector (mk : Rm → Instr) (sel : State → Word16) : Prop :=
  (∀ x, ProtectedOnly (mk x)) ∧
  (∀ r, When (mk (.reg r)) false nothing (fun u _ => u.pe) fun u _ => u.writeReg u.osz r ((sel u).setWidth _)) ∧
  (∀ m, When (mk (.mem m)) false (fun _ => memAddrs m 2 true) (fun u _ => u.pe) (fun u as => physWriteNat u (sel u).toNat as)
    (stored := fun _ as => as))

/-- A selector operand, and its descriptor if it lies inside its table. -/
def selDesc (x : Rm) (u : State) : M (Word16 × Option Word64) := do
  let sel : Word16 ← readRm .w x
  if isNull sel then return (sel, none)
  match u.descAddr sel with
  | none => return (sel, none)
  | some a => return (sel, some (BitVec.ofNat 64 (← sysRead a 8)))

/-- A protection check (43 R841 to R844): ZF says whether the selector's descriptor passes `ok` and may be seen from the
current privilege level, and then `use` of it is left. -/
def ChecksSelector (mk : Rm → Instr) (ok : SegReg → Bool) (use : State → Word64 → State) : Prop :=
  ∀ x, ProtectedOnly (mk x) ∧
    When (mk x) false (selDesc x) (fun u _ => u.pe) fun u p =>
      match p.2 with
      | none => u.setFlag fZF false
      | some d =>
        let r := segOfDesc p.1 d
        if ok r && (r.conforming || (u.cpl ≤ r.dpl && selRpl p.1 ≤ r.dpl)) then use (u.setFlag fZF true) d
        else u.setFlag fZF false

/-- A model-specific register that RDMSR reads whole and WRMSR writes whole but for `reserved` bits, which must be 0. -/
def PlainMsr (m : Nat) (get : State → Word64) (set : State → Word64 → State) (reserved : Word64 := 0) : Prop :=
  let here (u : State) : Bool := privOk u && (u.reg32 rCX).toNat == m
  let v (u : State) : Word64 := u.reg32 rDX ++ u.reg32 rAX
  When .rdmsr false nothing (fun u _ => here u) (fun u _ =>
    (u.writeReg .d rDX ((get u).extractLsb' 32 32)).writeReg .d rAX ((get u).setWidth 32)) ∧
  When .wrmsr false nothing (fun u _ => here u && v u &&& reserved == 0) (fun u _ => set u (v u)) ∧
  Traps .wrmsr nothing (fun u _ => here u && v u &&& reserved != 0) { vector := 13, err := some 0 }

def withMsr (u : State) (f : Msrs → Msrs) : State := { u with msr := f u.msr }

/-- The fields of IA32_MCi_STATUS that are reserved for an error code, as high and low bit (10_state R136 to R138; log 15). -/
def mciFields (v : Word64) : List (Nat × Nat) :=
  let code := v.toNat % 2 ^ 16
  if code = 0x400 then [(25, 16), (31, 28), (56, 32)]
  else if code / 2 ^ 11 = 1 then [(31, 24), (56, 32), (20, 20)]
  else if code / 2 ^ 8 = 1 then [(31, 22), (56, 40)]
  else [(25, 24), (31, 28), (56, 40)]
def mciOpen (v : Word64) (k : Nat) : Bool := !(mciFields v).any fun f => decide (f.2 ≤ k) && decide (k ≤ f.1)

/-- A value of RDMSR at its place. -/
def msrRead (u : State) (v : Word64) : State := (u.writeReg .d rDX (v.extractLsb' 32 32)).writeReg .d rAX (v.setWidth 32)

/-- n bytes from a linear address, with paging off. -/
def linearBytes (la : Word32) (n : Nat) : List Nat := (List.range n).map fun k => (la + BitVec.ofNat 32 k).toNat
def readLinear (s : State) (la : Word32) (n : Nat) : Nat := physReadNat s (linearBytes la n)

/-- Whether the microcode update whose header lies at a linear address is loaded, with paging off (70 R1712 to R1731): header
and loader version 1, this processor's signature with a flag of its platform, and an authentic image. -/
def updateLoads (u : State) (base : Word32) : Bool :=
  let field (off : Nat) : Nat := readLinear u (base + BitVec.ofNat 32 off) 4
  let data := if field 28 = 0 then 2000 else field 28
  let total := if field 28 = 0 then 2048 else field 32
  let more := if total ≤ data + 48 then 0 else field (data + 48)
  let signatures := (field 12, field 24) ::
    (List.range more).map fun n => (field (data + 68 + 12 * n), field (data + 72 + 12 * n))
  field 0 == 1 && field 20 == 1
    && (match signatures.find? fun p => p.1 == Config.signature.toNat with
        | some p => p.2.testBit Config.platformId.toNat
        | none => false)
    && Config.ucodeAuthentic ((linearBytes base total).map (physRead8 u))

/-- The model-specific registers there are, and whether each can be read and written (10_state R110 to R139). -/
def msrReads (m : Nat) : Bool :=
  [0x10, 0x17, 0x8B, 0x174, 0x175, 0x176, 0x19A, 0x19C, 0x1A0, 0x1D9, 0x1DA, 0x401, 0x405, 0x409, 0x40D, 0x3B8, 0x3B9, 0x3BC,
    0x3BD, 0x3BE, 0x3CA, 0x3CB, 0x3CC, 0x3CD, 0x3E0, 0x3E1].contains m
    || (0x30C ≤ m && m ≤ 0x311) || (0x36C ≤ m && m ≤ 0x371) || (0x680 ≤ m && m ≤ 0x68F) || (0x6C0 ≤ m && m ≤ 0x6CF)
def msrWrites (m : Nat) : Bool := m == 0x79 || (msrReads m && m != 0x17 && m != 0x1DA)

/-! ## Numbers -/

/-- A magnitude that an exact number stands for: with `sticky` a rest below its last place is added to it. -/
def StandsFor (x : Exact) (m : ℝ) : Prop :=
  let low : ℝ := x.mant * (2 : ℝ) ^ x.exp
  if x.sticky then low < m ∧ m < low + (2 : ℝ) ^ x.exp else m = low

/-- r is the magnitude m rounded to a multiple of 2^e (44 R922): down, up and toward zero give the neighbour on that side,
nearest one at most half a unit away and even on a tie; r is inexact exactly when it differs. -/
def RoundsTo (rc : BitVec 2) (neg : Bool) (e : Int) (m : ℝ) (r : Rounded) : Prop :=
  let exact : ℝ := m / (2 : ℝ) ^ e
  let q : ℝ := r.q
  (r.inexact = true ↔ q ≠ exact) ∧ (r.up = true ↔ exact < q) ∧ |q - exact| < 1 ∧
  (rc = 0 → |q - exact| ≤ 1 / 2 ∧ (|q - exact| = 1 / 2 → r.q % 2 = 0)) ∧
  (rc = 1 → if neg then exact ≤ q else q ≤ exact) ∧
  (rc = 2 → if neg then q ≤ exact else exact ≤ q) ∧
  (rc = 3 → q ≤ exact)

/-- An encoded magnitude of a format with the value v: its significand has its leading bit where the exponent field is not
0 (44 R921). -/
def Encodes (f : Fmt) (k : Packed) (v : ℝ) : Prop :=
  (if k.exp = 0 then k.sig < 2 ^ (f.p - 1) else 2 ^ (f.p - 1) ≤ k.sig ∧ k.sig < 2 ^ f.p) ∧
  v = k.sig * (2 : ℝ) ^ ((max k.exp 1 : Nat) - f.emax - ((f.p : Int) - 1))

def peFlag (r : Rounded) : Byte := if r.inexact then 0x20 else 0

/-- What rounding to p bits in a format gives, the leading bit of the magnitude at 2^top, r the magnitude rounded to p bits
and d the one rounded at the place p - 1 below the smallest exponent (44 R922, R923; 46 R1143): overflow, masked and not, a
number of the normal range, and a tiny one, masked and not; `wrap` moves the exponent of an unmasked result. -/
def RoundedIn (f : Fmt) (p : Nat) (rc : BitVec 2) (masks : Byte) (wrap : Int) (neg : Bool) (top : Int) (r d : Rounded)
    (o : FpOut) : Prop :=
  let value : ℝ := r.q * (2 : ℝ) ^ (top - ((p : Int) - 1))
  let least : Int := 1 - f.emax
  let toInf : Bool := rc == 0 || (rc == 1 && neg) || (rc == 2 && !neg)
  ((2 : ℝ) ^ (f.emax + 1) ≤ value →
    if masks.getLsbD 3 then
      o = { val := if toInf then { exp := (2 * f.emax + 1).toNat, sig := 2 ^ (f.p - 1) }
              else { exp := (2 * f.emax).toNat, sig := 2 ^ f.p - 1 }
            flags := 0x28, up := toInf }
    else o.flags = 8 ||| peFlag r ∧ o.up = r.up ∧ Encodes f o.val (value * (2 : ℝ) ^ (-wrap))) ∧
  (value < (2 : ℝ) ^ (f.emax + 1) → least ≤ top → o.flags = peFlag r ∧ o.up = r.up ∧ Encodes f o.val value) ∧
  (top < least →
    if masks.getLsbD 4 then
      o.flags = (if d.inexact then 0x30 else 0) ∧ o.up = d.up ∧ Encodes f o.val (d.q * (2 : ℝ) ^ (least - ((p : Int) - 1)))
    else o.flags = 0x10 ||| peFlag r ∧ o.up = r.up ∧ (least ≤ top + wrap → Encodes f o.val (value * (2 : ℝ) ^ wrap)))

def RoundsIn (f : Fmt) (p : Nat) (rc : BitVec 2) (masks : Byte) (wrap : Int) (neg : Bool) (m : ℝ) (o : FpOut) : Prop :=
  ∀ (top : Int) (r d : Rounded), (2 : ℝ) ^ top ≤ m → m < (2 : ℝ) ^ (top + 1) → RoundsTo rc neg (top - ((p : Int) - 1)) m r →
    RoundsTo rc neg (1 - f.emax - ((p : Int) - 1)) m d → RoundedIn f p rc masks wrap neg top r d o

/-- An exact number that can be rounded to p bits: its rest, if it has one, lies below them. -/
def Roundable (p : Nat) (x : Exact) (m : ℝ) : Prop := StandsFor x m ∧ 0 < m ∧ (x.sticky = true → 2 ^ p ≤ x.mant)

/-- The exact number a finite nonzero extended value is, by its fields (44 R921). -/
def extNumber (v : Word80) : Exact :=
  { neg := v.getLsbD 79, mant := v.toNat % 2 ^ 64, exp := (max (v.toNat / 2 ^ 64 % 2 ^ 15) 1 : Nat) - 16446 }
/-- The class of an extended value is that of a finite nonzero number. -/
def finite (v : Word80) : Prop := extCls v = .normal ∨ extCls v = .denormal

/-- An outcome that an exception i of a flag's place prevents unless it is masked. -/
def ifMasked {α : Type} (masks : Byte) (i : Nat) (flags : Byte) (v : α) : XRes α :=
  { flags, up := false, val := if masks.getLsbD i then some v else none }

/-- The NaN that an operation on a NaN, or on two of which one at least is a NaN, answers: quieted; of two the one with the
larger significand, of equal ones the positive one (44 R924). -/
def nanOf (a b : Word80) : Word80 :=
  let nan (v : Word80) : Bool := extCls v == .snan || extCls v == .qnan
  let sig (v : Word80) : Nat := v.toNat % 2 ^ 64
  let one := if !nan b then a else if !nan a then b
    else if sig a < sig b ∨ (sig a = sig b ∧ a.getLsbD 79 = true) then b else a
  one ||| 0x4000000000000000

/-! ## x87 -/

/-- An x87 instruction may run: CR0.EM and CR0.TS are clear and no unmasked exception waits (44 R920). -/
def xReady (u : State) : Bool := !u.cr0.getLsbD 2 && !u.cr0.getLsbD 3 && !u.fpu.sw.getLsbD 7
/-- As far as CR0 goes, which is all that the control instructions without wait ask. -/
def xPresent (u : State) : Bool := !u.cr0.getLsbD 2 && !u.cr0.getLsbD 3

def withFpu (u : State) (f : Fpu) : State := { u with fpu := f }

/-- The x87 unit with the instruction noted (44 R920 step 4): its address, its opcode, its memory operand. -/
def noted (u : State) (op rm : Byte) : Fpu :=
  { u.fpu with fipSel := u.cs.sel, fip := u.eip, fop := BitVec.ofNat 11 (op.toNat % 8 * 256 + rm.toNat) }
def notedMem (u : State) (op : Byte) (k : RegNum) (m : MemRef) : Fpu :=
  { noted u op ((encMem k m).headD 0) with fdpSel := (u.seg (u.memSeg m)).sel, fdp := u.ea m }

/-- The status word after flags are raised (10_state R93; 44 R923): bits 6:0 gain the flags, C1 is `c1`, and ES and B (bits 7
and 15) say whether a flag is set that is not masked; the other bits stay. -/
def flagged (f : Fpu) (c1 : Bool) (flags : Byte) : Fpu :=
  let raised (k : Nat) : Bool := f.sw.getLsbD k || flags.getLsbD k
  let es := (List.range 6).any fun k => raised k && !f.cw.getLsbD k
  { f with sw := (BitVec.ofBoolListLE ((List.range 16).map fun k =>
      if k < 7 then raised k else if k = 7 ∨ k = 15 then es else if k = 9 then c1 else f.sw.getLsbD k)).setWidth 16 }
/-- ES and B computed anew. -/
def summed (f : Fpu) : Fpu := flagged f (f.sw.getLsbD 9) 0
/-- n pops (44 R925): TOP, in bits 13:11, moves up by n, and the n registers it leaves get the tag 11B. -/
def popped (f : Fpu) (n : Nat) : Fpu :=
  let top := f.sw.toNat / 2 ^ 11 % 8
  { f with
    sw := BitVec.ofNat 16 (f.sw.toNat - top * 2 ^ 11 + (top + n) % 8 * 2 ^ 11)
    tw := (BitVec.ofBoolListLE ((List.range 16).map fun k =>
      f.tw.getLsbD k || decide ((k / 2 + 8 - top) % 8 < n))).setWidth 16 }
/-- What delivering a result, raising flags, the summary and a pop are. -/
def Delivers : Prop :=
  (∀ (α : Type) (f : Fpu) (r : XRes α) (place : Fpu → α → Fpu),
    f.settle r place = flagged (match r.val with | some v => place f v | none => f) r.up r.flags) ∧
  ∀ (f : Fpu) (flags : Byte),
    f.raised flags = flagged f (f.sw.getLsbD 9) flags ∧ f.summary = summed f ∧ f.pop = popped f 1

/-- C0, C2 and C3 as three open bits. -/
def openCodes (f : Fpu) (c : BitVec 3) : Fpu :=
  { f with sw := setBit (setBit (setBit f.sw 8 (c.getLsbD 0)) 10 (c.getLsbD 1)) 14 (c.getLsbD 2) }

/-- A register instruction and its effect on the unit; with `calc` C0, C2 and C3 are open before it. -/
def XReg (i : Instr) (op rm : Byte) (g : Fpu → Fpu) : Prop :=
  When i false nothing (fun u _ => xReady u) (fun u _ => withFpu u (g (noted u op rm)))
def XCalc (i : Instr) (op rm : Byte) (g : Fpu → Fpu) : Prop :=
  When i false (fun _ => free 3) (fun u _ => xReady u) (fun u c => withFpu u (g (openCodes (noted u op rm) c)))

/-- An instruction with a memory source. -/
def XMem (w : Nat) (i : Instr) (op : Byte) (k : RegNum) (m : MemRef) (g : BitVec w → Fpu → Fpu) : Prop :=
  When i false (fun _ => readMem w m) (fun u _ => xReady u) (fun u v => withFpu u (g v (notedMem u op k m)))
def XMemCalc (w : Nat) (i : Instr) (op : Byte) (k : RegNum) (m : MemRef) (g : BitVec w → Fpu → Fpu) : Prop :=
  When i false (fun _ => do let v ← readMem w m; return (v, ← free 3)) (fun u _ => xReady u)
    (fun u p => withFpu u (g p.1 (openCodes (notedMem u op k m) p.2)))

/-- A store of n bytes: the value if there is one, then the pop if it happened, C1 and the flags. The destination's checks
come first; it is not marked dirty where nothing is stored (20_memory R234). -/
def XStore (n : Nat) (i : Instr) (op : Byte) (k : RegNum) (m : MemRef) (val : Fpu → XRes Nat) (pops : Bool) : Prop :=
  let res (u : State) : XRes Nat := val (notedMem u op k m)
  let done (t u : State) : State := withFpu t ((notedMem u op k m).settle (res u) fun f _ => if pops then f.pop else f)
  When i false
    (fun _ => do
      probe (memAddrs m n true)
      memAddrs m n true)
    (fun u _ => xReady u && (res u).val.isSome)
    (fun u as => done (physWriteNat u ((res u).val.getD 0) as) u) (stored := fun _ as => as) ∧
  When i false (fun _ => probe (memAddrs m n true)) (fun u _ => xReady u && (res u).val.isNone) (fun u _ => done u u)

/-- An FCMOV (44 R940): C1 is open unless a source is empty. -/
def XMoves (mk : RegNum → Instr) (op : Byte) (k : RegNum) (cond : State → Bool) : Prop :=
  ∀ r,
    When (mk r) false freeC1 (fun u _ => xReady u && !u.fpu.empty 0 && !u.fpu.empty r)
      (fun u c =>
        let f := noted u op (modrm 3 k r)
        let g := if cond u then f.setSt 0 (f.st r) else f
        withFpu u { g with sw := setBit g.sw 9 c }) ∧
    When (mk r) false freeC1 (fun u _ => xReady u && (u.fpu.empty 0 || u.fpu.empty r))
      (fun u _ => withFpu u (underflow (noted u op (modrm 3 k r)) fun f => f.setSt 0 extIndefinite))
where
  freeC1 (_ : State) : M Bool := freeBit
  /-- A stack underflow (44 R925): #IA with C1 clear, and the masked response. -/
  underflow (f : Fpu) (masked : Fpu → Fpu) : Fpu :=
    ((if f.masks.getLsbD 0 then masked f else f).setC1 false).raised 0x41

/-- A basic operation in its seven forms (44 R954): `op` takes the destination's value, then the source's. -/
def XArith (mk : FArith → Instr) (pop : RegNum → Instr) (int : FInt → Instr) (k kd : RegNum) (op : XOp) : Prop :=
  (∀ m, XMemCalc 32 (mk (.m32 m)) 0xD8 k m fun v f => f.arithTop op (argFp .single v.toNat)) ∧
  (∀ m, XMemCalc 64 (mk (.m64 m)) 0xDC k m fun v f => f.arithTop op (argFp .double v.toNat)) ∧
  (∀ r, XCalc (mk (.st0 r)) 0xD8 (modrm 3 k r) fun f => f.arithTop op (f.arg r)) ∧
  (∀ r, XCalc (mk (.sti r)) 0xDC (modrm 3 kd r) fun f => f.arithTo op r false) ∧
  (∀ r, XCalc (pop r) 0xDE (modrm 3 kd r) fun f => f.arithTo op r true) ∧
  (∀ m, XMemCalc 16 (int (.m16 m)) 0xDE k m fun v f => f.arithTop op (argInt v.toInt)) ∧
  (∀ m, XMemCalc 32 (int (.m32 m)) 0xDA k m fun v f => f.arithTop op (argInt v.toInt))

/-- The operations on zeros, infinities and finite numbers (44 R922, R923, R979): the sign of an exact zero sum, the invalid
ones, the infinity of a division by zero. -/
def ValueOperations : Prop :=
  ∀ (rc : BitVec 2) (m n : Bool) (x y : Exact),
    (opAdd rc (.inf m) (.inf n) = if m = n then .val (.inf m) else .invalid) ∧
    opAdd rc (.inf m) (.zero n) = .val (.inf m) ∧ opAdd rc (.zero n) (.inf m) = .val (.inf m) ∧
    opAdd rc (.inf m) (.fin x) = .val (.inf m) ∧ opAdd rc (.fin x) (.inf m) = .val (.inf m) ∧
    opAdd rc (.zero m) (.zero n) = .val (.zero (if m = n then m else rc == 1)) ∧
    opAdd rc (.zero m) (.fin x) = .val (.fin x) ∧ opAdd rc (.fin x) (.zero m) = .val (.fin x) ∧
    opAdd rc (.fin x) (.fin y) = .val (match Exact.add x y with | some z => .fin z | none => .zero (rc == 1)) ∧
    (∀ a, opSub rc a (.inf n) = opAdd rc a (.inf !n) ∧ opSub rc a (.zero n) = opAdd rc a (.zero !n) ∧
      opSub rc a (.fin y) = opAdd rc a (.fin { y with neg := !y.neg })) ∧
    opMul (.inf m) (.zero n) = .invalid ∧ opMul (.zero m) (.inf n) = .invalid ∧
    opMul (.inf m) (.inf n) = .val (.inf (m != n)) ∧ opMul (.inf m) (.fin y) = .val (.inf (m != y.neg)) ∧
    opMul (.fin x) (.inf n) = .val (.inf (x.neg != n)) ∧ opMul (.zero m) (.zero n) = .val (.zero (m != n)) ∧
    opMul (.zero m) (.fin y) = .val (.zero (m != y.neg)) ∧ opMul (.fin x) (.zero n) = .val (.zero (x.neg != n)) ∧
    opMul (.fin x) (.fin y) = .val (.fin (x.mul y)) ∧
    opDiv (.inf m) (.inf n) = .invalid ∧ opDiv (.zero m) (.zero n) = .invalid ∧
    opDiv (.inf m) (.zero n) = .val (.inf (m != n)) ∧ opDiv (.inf m) (.fin y) = .val (.inf (m != y.neg)) ∧
    opDiv (.zero m) (.inf n) = .val (.zero (m != n)) ∧ opDiv (.fin x) (.inf n) = .val (.zero (x.neg != n)) ∧
    opDiv (.zero m) (.fin y) = .val (.zero (m != y.neg)) ∧ opDiv (.fin x) (.zero n) = .zeroDiv (x.neg != n) ∧
    opDiv (.fin x) (.fin y) = .val (.fin (x.div y)) ∧
    opSqrt (.zero n) = .val (.zero n) ∧ (opSqrt (.inf n) = if n then .invalid else .val (.inf false)) ∧
    (opSqrt (.fin x) = if x.neg then .invalid else .val (.fin x.sqrt))

/-- The checks of 44 R923 and R924 in their order, on two operands or on one (b then is a): an empty register, an unsupported
operand, NaNs, an invalid operation, an unmasked denormal operand, a division by zero; else the result of the operation. -/
def ChecksOperands : Prop :=
  ∀ (α : Type) (masks : Byte) (a b : XArg) (args : List XArg) (ofNan : Word80 → α) (ofInf : Bool → α) (op : Op)
    (finish : Val → XRes α), args = [a, b] ∨ (args = [a] ∧ b = a) →
    let r := xRun masks args ofNan ofInf op finish
    let has (c : Cls) : Prop := extCls a.v = c ∨ extCls b.v = c
    let den : Byte := if a.den || b.den then 2 else 0
    let held : Prop := den = 2 ∧ masks.getLsbD 1 = false
    (a.empty = true ∨ b.empty = true → r = ifMasked masks 0 0x41 (ofNan extIndefinite)) ∧
    (a.empty = false → b.empty = false →
      (has .unsupported → r = ifMasked masks 0 1 (ofNan extIndefinite)) ∧
      (¬has .unsupported → has .snan → r = ifMasked masks 0 1 (ofNan (nanOf a.v b.v))) ∧
      (¬has .unsupported → ¬has .snan → has .qnan → r = xExact (ofNan (nanOf a.v b.v))) ∧
      (¬has .unsupported → ¬has .snan → ¬has .qnan →
        (op = .invalid → r = ifMasked masks 0 1 (ofNan extIndefinite)) ∧
        (op ≠ .invalid → held → r = { flags := 2, up := false, val := none }) ∧
        (∀ n, op = .zeroDiv n → ¬held → r = ifMasked masks 2 (den ||| 4) (ofInf n)) ∧
        (∀ v, op = .val v → ¬held → r = { finish v with flags := den ||| (finish v).flags })))

/-- The flags that two operands raise by being denormal, and that one is denormal unmasked. -/
def denFlag (l : List XArg) : Byte := if l.any (·.den) then 2 else 0
def denHeld (f : Fpu) (l : List XArg) : Prop := denFlag l = 2 ∧ f.masks.getLsbD 1 = false

/-- FXTRACT (44 R980): the exponent replaces ST(0), the significand with the exponent of 1 is pushed; of a zero the exponent
is -infinity, a division by zero, and of an infinity +infinity. -/
def Extracts : Prop :=
  ∀ f : Fpu, f.empty 0 = false → f.empty 7 = true → ¬denHeld f [f.arg 0] →
    let v := f.st 0
    let neg := v.getLsbD 79
    let both (r : XRes (Word80 × Word80)) : Prop := f.xtract = f.settle r fun g p => (g.setSt 0 p.1).push p.2
    let infinity (n : Bool) : Word80 := extOf n { exp := 0x7FFF, sig := 2 ^ 63 }
    (finite v → ∀ (top : Int) (m : ℝ), StandsFor (extNumber v) m → (2 : ℝ) ^ top ≤ m → m < (2 : ℝ) ^ (top + 1) →
      ∃ k, Encodes .extended k (m / (2 : ℝ) ^ top) ∧
        both { flags := denFlag [f.arg 0], up := false, val := some (extOfInt top, extOf neg k) }) ∧
    (extCls v = .zero → both (ifMasked f.masks 2 4 (infinity true, extOf neg { exp := 0, sig := 0 }))) ∧
    (extCls v = .inf → both (xExact (infinity false, infinity neg)))

/-- FPREM and FPREM1 (44 R973, R974): where the exponents differ by less than 64 the remainder of the quotient Q, truncated or
nearest, with Q's bits 2, 1 and 0 in C0, C3 and C1 and C2 clear; else one of the quotient less its last D - N bits, C2 set;
an infinite divisor leaves ST(0) and gives Q = 0. -/
def Remainders (nearest : Bool) : Prop :=
  ∀ (f : Fpu) (c1 : Bool),
    let (a, b) := (f.arg 0, f.arg 1)
    let g := f.prem nearest c1
    let codes (h : Fpu) (c0 c3 c1 : Bool) : Fpu :=
      { h with sw := setBit (setBit (setBit (setBit h.sw 10 false) 8 c0) 14 c3) 9 c1 }
    let replace (r : XRes Word80) : Fpu := f.settle { r with flags := denFlag [a, b] ||| r.flags } fun g v => g.setSt 0 v
    let wrong (c : Cls) : Prop := c = .unsupported ∨ c = .snan ∨ c = .qnan
    let full : Prop := a.empty = false ∧ b.empty = false
    (a.empty = true ∨ b.empty = true ∨ wrong (extCls a.v) ∨ wrong (extCls b.v) ∨ extCls a.v = .inf ∨ extCls b.v = .zero →
      g = f.settle (xRun f.masks [a, b] id extInf .invalid xUnused) fun g v => g.setSt 0 v) ∧
    (full → finite a.v ∨ extCls a.v = .zero → finite b.v ∨ extCls b.v = .inf →
      (denHeld f [a, b] → g = (f.setC1 false).raised 2) ∧
      (¬denHeld f [a, b] →
        (extCls b.v = .inf → g = codes (f.raised (denFlag [a, b])) false false false) ∧
        (extCls a.v = .zero → finite b.v → g = codes (replace (xExact (extOf (a.v.getLsbD 79) { exp := 0, sig := 0 }))) false false false) ∧
        (finite a.v → finite b.v → ∀ (m n : ℝ) (top low : Int), StandsFor (extNumber a.v) m → StandsFor (extNumber b.v) n →
          (2 : ℝ) ^ top ≤ m → m < (2 : ℝ) ^ (top + 1) → (2 : ℝ) ^ low ≤ n → n < (2 : ℝ) ^ (low + 1) →
          let neg := a.v.getLsbD 79
          let result (rest : ℝ) (r : XRes Word80) : Prop :=
            if rest = 0 then r = xExact (extOf neg { exp := 0, sig := 0 })
            else ∃ z : Exact, StandsFor z |rest| ∧ z.sticky = false ∧ (z.neg = true ↔ (neg = true ↔ 0 < rest)) ∧
              r = roundExt f.rc 64 f.masks (.fin z)
          (top - low < 64 → ∃ (q : Rounded) (r : XRes Word80),
            RoundsTo (if nearest then 0 else 3) false 0 (m / n) q ∧ result (m - n * q.q) r ∧
            g = codes (replace r) (q.q.testBit 2) (q.q.testBit 1) (q.q.testBit 0)) ∧
          (64 ≤ top - low → ∃ (k : Nat) (q : Rounded) (r : XRes Word80), 32 ≤ k ∧ k ≤ 63 ∧
            RoundsTo 3 false (top - low - k) (m / n) q ∧ result (m - n * q.q * (2 : ℝ) ^ (top - low - k)) r ∧
            g = { replace r with sw := setBit (setBit (replace r).sw 10 true) 9 c1 }))))
where
  /-- What an invalid operation does not get to. -/
  xUnused (_ : Val) : XRes Word80 := xExact 0

/-- What a comparison of two operands finds (44 R926): C3, C2 and C0, the flags it raises, and whether it is done. An empty
register is an invalid operation with a stack fault; an unsupported operand or a signaling NaN is one, and so is a quiet NaN
for an ordered comparison; all these are unordered, as is a quiet NaN for an unordered comparison; a denormal operand whose
exception is not masked gives no codes; else the order of the values, the infinities outermost and the zeros alike. -/
def comparison (masks : Byte) (ordered : Bool) (a b : XArg) : Compared :=
  let is (c : Cls) : Bool := extCls a.v == c || extCls b.v == c
  let masked := masks.getLsbD 0
  let den : Byte := if a.den || b.den then 2 else 0
  let unordered : Codes := { c3 := true, c2 := true, c0 := true }
  let beyond (v : Word80) : Int := if extCls v = .inf then (if v.getLsbD 79 then -1 else 1) else 0
  let number (v : Word80) : ℚ :=
    if extCls v = .zero ∨ extCls v = .inf then 0
    else (if v.getLsbD 79 then -1 else 1) * (extNumber v).mant * (2 : ℚ) ^ (extNumber v).exp
  let same := beyond a.v = beyond b.v
  if a.empty || b.empty then { codes := if masked then some unordered else none, flags := 0x41, done := masked }
  else if is .unsupported || is .snan || (ordered && is .qnan) then { codes := some unordered, flags := 1, done := masked }
  else if is .qnan then { codes := some unordered, flags := 0, done := true }
  else if den = 2 ∧ masks.getLsbD 1 = false then { codes := none, flags := 2, done := false }
  else { codes := some {
           c3 := decide (same ∧ number a.v = number b.v), c2 := false
           c0 := decide (beyond a.v < beyond b.v ∨ (same ∧ number a.v < number b.v)) }
         flags := den, done := true }

/-- A register as an operand. -/
def stArg (f : Fpu) (r : RegNum) : XArg :=
  let phys : RegNum := BitVec.ofNat 3 (f.sw.toNat / 2 ^ 11 + r.toNat)
  let v := f.regs.get phys
  { v, den := extCls v == .denormal, empty := f.tw.getLsbD (2 * phys.toNat) && f.tw.getLsbD (2 * phys.toNat + 1) }

/-- What a comparison leaves but for its codes: n pops if it is done, else none; its flags; C1 clear. -/
def comparedTo (f : Fpu) (c : Compared) (n : Nat) : Fpu := flagged (if c.done then popped f n else f) false c.flags

/-- A comparison of ST(0) with an operand into C3, C2 and C0, bits 14, 10 and 8 of the status word, then n pops. -/
def XCompare (ordered : Bool) (n : Nat) (b : Fpu → XArg) (f : Fpu) : Fpu :=
  let c := comparison f.masks ordered (stArg f 0) (b f)
  let coded : Fpu := match c.codes with
    | some k => { f with sw := setBit (setBit (setBit f.sw 14 k.c3) 10 k.c2) 8 k.c0 }
    | none => f
  comparedTo coded c n

/-- A comparison of ST(0) with ST(r) into ZF, PF and CF, OF, SF and AF cleared (44 R926). -/
def XCompareFlags (mk : RegNum → Instr) (op : Byte) (k : RegNum) (ordered : Bool) (n : Nat) : Prop :=
  ∀ r, When (mk r) false nothing (fun u _ => xReady u) fun u _ =>
    let f := noted u op (modrm 3 k r)
    let c := comparison f.masks ordered (stArg f 0) (stArg f r)
    let t := match c.codes with
      | some x => ([fOF, fSF, fAF].foldl (fun t k => t.setFlag k false)
        (((u.setFlag fZF x.c3).setFlag fPF x.c2).setFlag fCF x.c0))
      | none => u
    withFpu t (comparedTo f c n)

/-- The environment in its four formats (44 R1025 to R1027): the bits at their places in what is stored, and what is loaded; the
real-address formats hold linear addresses, which load with the selector 0, and the 16-bit protected one has no opcode. -/
def EnvFormats : Prop :=
  ∀ (f g : Fpu) (r v : Nat),
    let at_ (n off w : Nat) : Nat := n / 2 ^ off % 2 ^ w
    let ip := (f.fipSel.toNat * 16 + f.fip.toNat) % 2 ^ 32
    let dp := (f.fdpSel.toNat * 16 + f.fdp.toNat) % 2 ^ 32
    let control (n gap : Nat) : Prop :=
      at_ n 0 16 = f.cw.toNat ∧ at_ n gap 16 = f.sw.toNat ∧ at_ n (2 * gap) 16 = f.tw.toNat
    let words (gap : Nat) : Fpu :=
      { g with cw := BitVec.ofNat 16 v, sw := BitVec.ofNat 16 (v / 2 ^ gap), tw := BitVec.ofNat 16 (v / 2 ^ (2 * gap)) }
    (let n := f.env true true r
     control n 32 ∧ at_ n 96 32 = f.fip.toNat ∧ at_ n 128 16 = f.fipSel.toNat ∧ at_ n 144 16 = f.fop.toNat ∧
     at_ n 160 32 = f.fdp.toNat ∧ at_ n 192 16 = f.fdpSel.toNat) ∧
    (let n := f.env true false r
     control n 32 ∧ at_ n 96 16 = ip % 2 ^ 16 ∧ at_ n 128 32 = f.fop.toNat + ip / 2 ^ 16 * 2 ^ 12 ∧
     at_ n 160 16 = dp % 2 ^ 16 ∧ at_ n 192 32 = dp / 2 ^ 16 * 2 ^ 12) ∧
    (let n := f.env false true r
     control n 16 ∧ at_ n 48 16 = f.fip.toNat % 2 ^ 16 ∧ at_ n 64 16 = f.fipSel.toNat ∧
     at_ n 80 16 = f.fdp.toNat % 2 ^ 16 ∧ at_ n 96 16 = f.fdpSel.toNat) ∧
    (let n := f.env false false r
     control n 16 ∧ at_ n 48 16 = ip % 2 ^ 16 ∧ at_ n 64 16 = f.fop.toNat + ip / 2 ^ 16 % 16 * 2 ^ 12 ∧
     at_ n 80 16 = dp % 2 ^ 16 ∧ at_ n 96 16 = dp / 2 ^ 16 % 16 * 2 ^ 12) ∧
    g.loadEnv true true v = summed { words 32 with
      fip := BitVec.ofNat 32 (v / 2 ^ 96), fipSel := BitVec.ofNat 16 (v / 2 ^ 128), fop := BitVec.ofNat 11 (v / 2 ^ 144)
      fdp := BitVec.ofNat 32 (v / 2 ^ 160), fdpSel := BitVec.ofNat 16 (v / 2 ^ 192) } ∧
    g.loadEnv true false v = summed { words 32 with
      fip := BitVec.ofNat 32 (at_ v 96 16 + at_ v 140 16 * 2 ^ 16), fipSel := 0, fop := BitVec.ofNat 11 (v / 2 ^ 128)
      fdp := BitVec.ofNat 32 (at_ v 160 16 + at_ v 204 16 * 2 ^ 16), fdpSel := 0 } ∧
    g.loadEnv false true v = summed { words 16 with
      fip := BitVec.ofNat 32 (at_ v 48 16), fipSel := BitVec.ofNat 16 (v / 2 ^ 64)
      fdp := BitVec.ofNat 32 (at_ v 80 16), fdpSel := BitVec.ofNat 16 (v / 2 ^ 96) } ∧
    g.loadEnv false false v = summed { words 16 with
      fip := BitVec.ofNat 32 (at_ v 48 16 + at_ v 76 4 * 2 ^ 16), fipSel := 0, fop := BitVec.ofNat 11 (v / 2 ^ 64)
      fdp := BitVec.ofNat 32 (at_ v 80 16 + at_ v 108 4 * 2 ^ 16), fdpSel := 0 }

/-- The x87 instructions that note themselves and wait (44 R920), the control instructions that wait, and those that do
not. -/
def xWaits (i : Instr) : Bool :=
  match i with
  | .fadd _ | .fcompp | .fmul _ | .fucompp | .fsub _ | .fsubr _ | .fnop | .fdiv _ | .fdivr _ | .fchs | .fcom _ | .fabs
  | .fcomp _ | .fiadd _ | .ftst | .fimul _ | .ficom _ | .fxam | .ficomp _ | .fld1 | .fisub _ | .fisubr _ | .fldl2t
  | .fidiv _ | .fidivr _ | .fldl2e | .fld _ | .fldpi | .fst _ | .fstp _ | .fldlg2 | .fild _ | .fist _ | .fldln2 | .fistp _
  | .fldz | .fisttp _ | .fbld _ | .f2xm1 | .fbstp _ | .fldenv _ | .fyl2x | .fldcw _ | .fptan | .frstor _ | .faddp _
  | .fpatan | .fmulp _ | .fsubp _ | .fxtract | .fsubrp _ | .fprem1 | .fdivp _ | .fdivrp _ | .fdecstp | .fxch _ | .ffree _
  | .fincstp | .fucom _ | .fprem | .fucomp _ | .fucomi _ | .fyl2xp1 | .fcomi _ | .fucomip _ | .fsqrt | .fcomip _
  | .fsincos | .fcmovb _ | .fcmove _ | .frndint | .fcmovbe _ | .fcmovu _ | .fscale | .fcmovnb _ | .fsin | .fcmovne _
  | .fcmovnbe _ | .fcos | .fcmovnu _ => true
  | _ => false
def xNoWait (i : Instr) : Bool :=
  match i with
  | .fnstenv _ | .fnstcw _ | .fnsave _ | .fnstsw _ | .fnclex | .fninit => true
  | _ => false

/-- The bits of the status word that an approximation leaves open: OE, UE and PE, ES and B, C0, C1 and C3. -/
def openStatus (f : Fpu) (v : Word16) : Fpu := { f with sw := (f.sw &&& 0x3C47) ||| (v &&& 0xC3B8) }

/-- A transcendental instruction on a positive or negative normal number in range, all exceptions masked: what `g` makes
of the unit, up to `openStatus`. -/
def XApprox (i : Instr) (rm : Byte) (ok : Fpu → Bool) (g : Fpu → Fpu) : Prop :=
  WhenOpen i nothing (fun u _ => xReady u && u.fpu.masks == 0x3F && !u.fpu.empty 0 && ok u.fpu)
    (fun u _ (v : Word16) => withFpu u (openStatus (g (noted u 0xD9 rm)) v))

/-- ST(0) is a normal number below 2^63 in magnitude. -/
def trigArg (f : Fpu) : Bool := extCls (f.st 0) == .normal && decide (extExp (f.st 0) < 16383 + 63)

/-! ## MMX and XMM -/

/-- An instruction on XMM registers may run (10_state R105). -/
def vReady (u : State) : Bool := !u.cr0.getLsbD 2 && u.cr4.getLsbD 9 && !u.cr0.getLsbD 3
/-- A move between the two register files may run (48 R1368). -/
def bothReady (u : State) : Bool := vReady u && !u.fpu.sw.getLsbD 7

/-- The register files an instruction works on: MMX, XMM, or both. -/
inductive VUnit where
  | mmx | xmm | both
  deriving DecidableEq, Repr

def pkUnit : Pk → VUnit
  | .mm _ _ => .mmx | .xmm _ _ => .xmm
def shiftUnit : PkShift → VUnit
  | .by o => pkUnit o | .immMm _ _ => .mmx | .immXmm _ _ => .xmm
def gprUnit : PkToGpr → VUnit
  | .mm _ _ => .mmx | .xmm _ _ => .xmm

/-- The vector instructions by the registers they work on, LFENCE and MFENCE among them (log 24); the others there are, MOVNTI,
CLFLUSH, the prefetches, SFENCE and PAUSE, ask for no unit. -/
def vUnit (i : Instr) : Option VUnit :=
  match i with
  | .packsswb o | .packssdw o | .packuswb o | .punpckhbw o | .punpckhwd o | .punpckhdq o | .punpcklbw o | .punpcklwd o
  | .punpckldq o | .paddb o | .paddw o | .paddd o | .paddq o | .paddsb o | .paddsw o | .paddusb o | .paddusw o | .psubb o
  | .psubw o | .psubd o | .psubq o | .psubsb o | .psubsw o | .psubusb o | .psubusw o | .pmaddwd o | .pmulhuw o
  | .pmulhw o | .pmullw o | .pmuludq o | .pcmpeqb o | .pcmpeqw o | .pcmpeqd o | .pcmpgtb o | .pcmpgtw o | .pcmpgtd o
  | .pand o | .pandn o | .por o | .pxor o | .pavgb o | .pavgw o | .pmaxsw o | .pmaxub o | .pminsw o | .pminub o
  | .psadbw o => some (pkUnit o)
  | .pinsrw o _ => some (pkUnit o)
  | .psllw o | .pslld o | .psllq o | .psraw o | .psrad o | .psrlw o | .psrld o | .psrlq o => some (shiftUnit o)
  | .pextrw o _ | .pmovmskb o => some (gprUnit o)
  | .movd (.toMm _ _) | .movd (.fromMm _ _) | .movq (.toMm _ _) | .movq (.fromMm _ _) | .emms | .pshufw _ _ _ | .maskmovq _ _
  | .movntq _ _ => some .mmx
  | .movq2dq _ _ | .movdq2q _ _ | .cvtpi2ps _ (.reg _) | .cvtpi2pd _ (.reg _) | .cvtps2pi _ _ | .cvttps2pi _ _
  | .cvtpd2pi _ _ | .cvttpd2pi _ _ => some .both
  | .movd (.toXmm _ _) | .movd (.fromXmm _ _) | .movq (.toXmm _ _) | .movq (.fromXmm _ _) | .cvtpi2ps _ (.mem _)
  | .cvtpi2pd _ (.mem _)
  | .lfence | .mfence | .pslldq _ _ | .psrldq _ _ | .punpckhqdq _ _ | .punpcklqdq _ _ | .pshufd _ _ _ | .pshufhw _ _ _
  | .pshuflw _ _ _ | .maskmovdqu _ _ | .movntdq _ _ | .movntps _ _ | .movntpd _ _ | .movdqa _ | .movdqu _ | .movaps _
  | .movups _ | .movapd _ | .movupd _ | .movss _ | .movsd _ | .movlps _ | .movhps _ | .movlpd _ | .movhpd _
  | .movhlps _ _ | .movlhps _ _ | .movmskps _ _ | .movmskpd _ _ | .addps _ _ | .addpd _ _ | .addss _ _ | .addsd _ _
  | .subps _ _ | .subpd _ _ | .subss _ _ | .subsd _ _ | .mulps _ _ | .mulpd _ _ | .mulss _ _ | .mulsd _ _ | .divps _ _
  | .divpd _ _ | .divss _ _ | .divsd _ _ | .sqrtps _ _ | .sqrtpd _ _ | .sqrtss _ _ | .sqrtsd _ _ | .maxps _ _
  | .maxpd _ _ | .maxss _ _ | .maxsd _ _ | .minps _ _ | .minpd _ _ | .minss _ _ | .minsd _ _ | .rcpps _ _ | .rcpss _ _
  | .rsqrtps _ _ | .rsqrtss _ _ | .andps _ _ | .andpd _ _ | .andnps _ _ | .andnpd _ _ | .orps _ _ | .orpd _ _
  | .xorps _ _ | .xorpd _ _ | .unpckhps _ _ | .unpckhpd _ _ | .unpcklps _ _ | .unpcklpd _ _ | .comiss _ _ | .comisd _ _
  | .ucomiss _ _ | .ucomisd _ _ | .cmpps _ _ _ | .cmppd _ _ _ | .cmpss _ _ _ | .cmpsd _ _ _ | .shufps _ _ _
  | .shufpd _ _ _ | .cvtsi2ss _ _ | .cvtss2si _ _ | .cvttss2si _ _ | .cvtsi2sd _ _ | .cvtsd2si _ _ | .cvttsd2si _ _
  | .cvtpd2ps _ _ | .cvtps2pd _ _ | .cvtsd2ss _ _ | .cvtss2sd _ _ | .cvtpd2dq _ _ | .cvttpd2dq _ _ | .cvtdq2pd _ _
  | .cvtps2dq _ _ | .cvttps2dq _ _ | .cvtdq2ps _ _ | .ldmxcsr _ | .stmxcsr _ | .addsubpd _ _ | .addsubps _ _
  | .haddpd _ _ | .haddps _ _ | .hsubpd _ _ | .hsubps _ _ | .movddup _ _ | .movshdup _ _ | .movsldup _ _ | .lddqu _ _ => some .xmm
  | _ => none

/-- The 16-byte operand that must be aligned (20_memory R209). -/
def pkWide : Pk → Option Rm
  | .mm _ _ => none | .xmm _ x => some x
def moveWide : XMove → Option Rm
  | .load _ x => some x | .store x _ => some x
def vWide (i : Instr) : Option Rm :=
  match i with
  | .packsswb o | .packssdw o | .packuswb o | .punpckhbw o | .punpckhwd o | .punpckhdq o | .punpcklbw o | .punpcklwd o
  | .punpckldq o | .paddb o | .paddw o | .paddd o | .paddq o | .paddsb o | .paddsw o | .paddusb o | .paddusw o | .psubb o
  | .psubw o | .psubd o | .psubq o | .psubsb o | .psubsw o | .psubusb o | .psubusw o | .pmaddwd o | .pmulhuw o
  | .pmulhw o | .pmullw o | .pmuludq o | .pcmpeqb o | .pcmpeqw o | .pcmpeqd o | .pcmpgtb o | .pcmpgtw o | .pcmpgtd o
  | .pand o | .pandn o | .por o | .pxor o | .pavgb o | .pavgw o | .pmaxsw o | .pmaxub o | .pminsw o | .pminub o
  | .psadbw o => pkWide o
  | .psllw (.by o) | .pslld (.by o) | .psllq (.by o) | .psraw (.by o) | .psrad (.by o) | .psrlw (.by o) | .psrld (.by o)
  | .psrlq (.by o) => pkWide o
  | .movaps f | .movapd f | .movdqa f => moveWide f
  | .movntps m _ | .movntpd m _ | .movntdq m _ => some (.mem m)
  | .punpckhqdq _ x | .punpcklqdq _ x | .addps _ x | .addpd _ x | .subps _ x | .subpd _ x | .mulps _ x | .mulpd _ x
  | .divps _ x | .divpd _ x | .sqrtps _ x | .sqrtpd _ x | .maxps _ x | .maxpd _ x | .minps _ x | .minpd _ x | .rcpps _ x
  | .rsqrtps _ x | .andps _ x | .andpd _ x | .andnps _ x | .andnpd _ x | .orps _ x | .orpd _ x | .xorps _ x | .xorpd _ x
  | .unpckhps _ x | .unpckhpd _ x | .unpcklps _ x | .unpcklpd _ x | .cvtpd2pi _ x | .cvttpd2pi _ x | .cvtpd2ps _ x
  | .cvtpd2dq _ x | .cvttpd2dq _ x | .cvtps2dq _ x | .cvttps2dq _ x | .cvtdq2ps _ x | .addsubpd _ x | .addsubps _ x
  | .haddpd _ x | .haddps _ x | .hsubpd _ x | .hsubps _ x | .movshdup _ x | .movsldup _ x | .pshufd _ x _
  | .pshufhw _ x _ | .pshuflw _ x _ | .cmpps _ x _ | .cmppd _ x _ | .shufps _ x _ | .shufpd _ x _ => some x
  | _ => none

/-- MMr and XMMr (10_state R100, R103). -/
def mm (u : State) (r : RegNum) : Word64 := (u.fpu.regs.get r).setWidth 64
def xmm (u : State) (r : RegNum) : Word128 := u.xmm.get r
def setX (u : State) (r : RegNum) (v : Word128) : State := { u with xmm := u.xmm.set r v }

/-- What every MMX instruction but EMMS does besides: TOP becomes 0 and every tag valid (10_state R101). -/
def asMmx (u : State) : State := withFpu u { u.fpu with sw := u.fpu.sw &&& 0xC7FF, tw := 0 }
/-- The effect of an MMX instruction that writes MMr: bits 79:64 of the x87 register become ones. -/
def setMmx (u : State) (r : RegNum) (v : Word64) : State :=
  asMmx (withFpu u { u.fpu with regs := u.fpu.regs.set r (0xFFFF#16 ++ v) })

/-- An instruction on MMX registers, with one register-or-memory source. -/
def MmxRun (i : Instr) (x : Rm) (after : State → Word64 → State) : Prop :=
  When i false (fun _ => readMmRm x) (fun u _ => xReady u) after
/-- An instruction on XMM registers, its memory source aligned to 16 bytes. -/
def XmmRun (i : Instr) (x : Rm) (after : State → Word128 → State) : Prop :=
  When i false (fun _ => readX x) (fun u _ => vReady u) after
/-- A two-operand instruction in its MMX and its XMM form. -/
def PkRuns (mk : Pk → Instr) (op : PkOp) : Prop :=
  (∀ d x, MmxRun (mk (.mm d x)) x fun u b => setMmx u d (op 64 (mm u d) b)) ∧
  (∀ d x, XmmRun (mk (.xmm d x)) x fun u b => setX u d (op 128 (xmm u d) b))
/-- A two-operand instruction on XMM registers. -/
def XRuns (mk : RegNum → Rm → Instr) (op : Word128 → Word128 → Word128) : Prop :=
  ∀ d x, XmmRun (mk d x) x fun u b => setX u d (op (xmm u d) b)

/-- A packed shift in its six rows: the count is the immediate or the low quadword of the source (45 R1090; 48 R1425). -/
def PkShifts (w : Nat) (mk : PkShift → Instr) (op : BitVec w → Nat → BitVec w) : Prop :=
  (∀ d x, MmxRun (mk (.by (.mm d x))) x fun u b => setMmx u d (shiftLanes w op (mm u d) b.toNat)) ∧
  (∀ d x, XmmRun (mk (.by (.xmm d x))) x fun u b => setX u d (shiftLanes w op (xmm u d) (b.toNat % 2 ^ 64))) ∧
  (∀ r n, When (mk (.immMm r n)) false nothing (fun u _ => xReady u) fun u _ =>
    setMmx u r (shiftLanes w op (mm u r) n.toNat)) ∧
  (∀ r n, When (mk (.immXmm r n)) false nothing (fun u _ => vReady u) fun u _ =>
    setX u r (shiftLanes w op (xmm u r) n.toNat))

/-- A low unpack: the MMX form reads a doubleword of memory (45 R1072). -/
def UnpacksLow (mk : Pk → Instr) (w : Nat) : Prop :=
  (∀ d r, MmxRun (mk (.mm d (.reg r))) (.reg r) fun u b => setMmx u d (unpack w false 64 (mm u d) b)) ∧
  (∀ d m, When (mk (.mm d (.mem m))) false (fun _ => readMem 32 m) (fun u _ => xReady u) fun u b =>
    setMmx u d (unpack w false 64 (mm u d) (b.setWidth 64))) ∧
  (∀ d x, XmmRun (mk (.xmm d x)) x fun u b => setX u d (unpack w false 128 (xmm u d) b))

/-- The 16-byte moves: aligned, or at any address, where alignment checking may or may not raise #AC (46 R1155, R1156). -/
def Moves16 (aligned : Bool) (mk : XMove → Instr) : Prop :=
  (∀ d r, When (mk (.load d (.reg r))) false nothing (fun u _ => vReady u) fun u _ => setX u d (xmm u r)) ∧
  (∀ d r, When (mk (.store (.reg d) r)) false nothing (fun u _ => vReady u) fun u _ => setX u d (xmm u r)) ∧
  (∀ d m, When (mk (.load d (.mem m))) false (fun _ => do
      let as ← if aligned then alignedAddrs m false else looseAddrs m false
      readAt 128 as) (fun u _ => vReady u) fun u v => setX u d v) ∧
  (∀ m r, When (mk (.store (.mem m) r)) false (fun _ => if aligned then alignedAddrs m true else looseAddrs m true)
    (fun u _ => vReady u) (fun u as => physWriteNat u (xmm u r).toNat as) (stored := fun _ as => as))

/-- A scalar move of w bits: into a register from a register the rest stays, from memory it is cleared (46 R1157). -/
def MovesScalar (w : Nat) (mk : XMove → Instr) : Prop :=
  let low (u : State) (d r : RegNum) : Word128 := (xmm u d >>> w <<< w) ||| ((xmm u r).setWidth w).setWidth 128
  (∀ d r, When (mk (.load d (.reg r))) false nothing (fun u _ => vReady u) fun u _ => setX u d (low u d r)) ∧
  (∀ d r, When (mk (.store (.reg d) r)) false nothing (fun u _ => vReady u) fun u _ => setX u d (low u d r)) ∧
  (∀ d m, When (mk (.load d (.mem m))) false (fun _ => readMem w m) (fun u _ => vReady u) fun u v =>
    setX u d (v.setWidth 128)) ∧
  (∀ m r, When (mk (.store (.mem m) r)) false (fun _ => memAddrs m (w / 8) true)
    (fun u _ => vReady u) (fun u as => physWriteNat u ((xmm u r).setWidth w).toNat as) (stored := fun _ as => as))

/-- The move of one half of an XMM register to or from memory (46 R1158, R1159). -/
def MovesHalf (high : Bool) (mk : XHalf → Instr) : Prop :=
  (∀ d m, When (mk (.load d m)) false (fun _ => readMem 64 m) (fun u _ => vReady u) fun u v =>
    setX u d (if high then v ++ (xmm u d).setWidth 64 else (xmm u d).extractLsb' 64 64 ++ v)) ∧
  (∀ m r, When (mk (.store m r)) false (fun _ => memAddrs m 8 true) (fun u _ => vReady u)
    (fun u as => physWriteNat u ((xmm u r).extractLsb' (if high then 64 else 0) 64).toNat as) (stored := fun _ as => as))

/-- A 16-byte aligned store. -/
def Stores16 (mk : MemRef → RegNum → Instr) : Prop :=
  ∀ m r, When (mk m r) false (fun _ => alignedAddrs m true) (fun u _ => vReady u)
    (fun u as => physWriteNat u (xmm u r).toNat as) (stored := fun _ as => as)

/-! ## Floating point in XMM registers -/

/-- The flags of a list of outcomes. -/
def flagsOf (g : SOut → Byte) (l : List SOut) : Byte := l.foldr (fun o acc => g o ||| acc) 0
/-- MXCSR bits 12:7, moved to the places of the flags. -/
def masksOf (u : State) : Byte := (u.mxcsr >>> 7).setWidth 8 &&& 0x3F
/-- The flags an instruction reports: those found before the computation, and unless one of them is unmasked those found
after it (46 R1143). -/
def flagsFound (u : State) (l : List SOut) : Byte :=
  let pre := flagsOf (fun o => o.pre) l
  if pre &&& ~~~masksOf u != 0 then pre else pre ||| flagsOf (fun o => o.post) l

/-- A computing instruction with the outcomes `outs`: with no unmasked exception it sets the flags and leaves `after` of
the values; else it writes no register and raises #XM, or #UD without CR4.OSXMMEXCPT, the flags set (46 R1142, R1143). -/
def Computes {α : Type} (i : Instr) (access : State → M α) (ready : State → Bool) (outs : State → α → List SOut)
    (after : State → α → List Nat → State) : Prop :=
  When i false access (fun u a => ready u && (flagsFound u (outs u a) &&& ~~~masksOf u == 0))
    (fun u a =>
      let t := after u a ((outs u a).map fun o => o.val)
      { t with mxcsr := u.mxcsr ||| (flagsFound u (outs u a)).setWidth 32 }) ∧
  TrapsBy i (fun u => do let a ← access u; return (u, a))
    (fun u p => ready u && (flagsFound u (outs u p.2) &&& ~~~masksOf u != 0))
    (fun p => { vector := if p.1.cr4.getLsbD 10 then 19 else 6, mxcsr := (flagsFound p.1 (outs p.1 p.2)).setWidth 32 })

/-- The elements of a value as numbers; a value from elements; the low w bits replaced. -/
def elems (w n : Nat) {k : Nat} (v : BitVec k) : List Nat := (List.range n).map fun j => (lane w v j).toNat
def fromElems (w : Nat) (l : List Nat) : Word128 := ofLanes 128 (l.map (BitVec.ofNat w))
def lowSet (w : Nat) (v : Word128) (x : Nat) : Word128 := (v >>> w <<< w) ||| (BitVec.ofNat w x).setWidth 128

/-- A packed operation on the elements of both operands. -/
def VPacked (mk : RegNum → Rm → Instr) (w : Nat) (f : Fmt) (op : SOp) : Prop :=
  ∀ d x, Computes (mk d x) (fun _ => readX x) vReady
    (fun u b => List.zipWith (op u.mxcsr f) (elems w (128 / w) (xmm u d)) (elems w (128 / w) b))
    (fun u _ l => setX u d (fromElems w l))
/-- A scalar operation: element 0, the rest unchanged. -/
def VScalar (mk : RegNum → Rm → Instr) (w : Nat) (f : Fmt) (op : SOp) : Prop :=
  ∀ d x, Computes (mk d x) (fun _ => readXmmRm w x) vReady
    (fun u b => [op u.mxcsr f (lane w (xmm u d) 0).toNat b.toNat])
    (fun u _ l => setX u d (lowSet w (xmm u d) (l.headD 0)))
/-- The four forms of an operation. -/
def VForms (ps pd ss sd : RegNum → Rm → Instr) (op : SOp) : Prop :=
  VPacked ps 32 .single op ∧ VPacked pd 64 .double op ∧ VScalar ss 32 .single op ∧ VScalar sd 64 .double op

/-- A horizontal operation on neighbours, those of the destination first (49 R1477). -/
def VHorizontal (mk : RegNum → Rm → Instr) (w : Nat) (f : Fmt) (op : SOp) : Prop :=
  ∀ d x, Computes (mk d x) (fun _ => readX x) vReady
    (fun u b =>
      let l := elems w (128 / w) (xmm u d) ++ elems w (128 / w) b
      (List.range (128 / w)).map fun j => op u.mxcsr f (l.getD (2 * j) 0) (l.getD (2 * j + 1) 0))
    (fun u _ l => setX u d (fromElems w l))
/-- Subtraction in the even elements, addition in the odd ones (49 R1475). -/
def VAlternating (mk : RegNum → Rm → Instr) (w : Nat) (f : Fmt) : Prop :=
  ∀ d x, Computes (mk d x) (fun _ => readX x) vReady
    (fun u b => (List.range (128 / w)).map fun j =>
      (if j % 2 = 0 then sSub else sAdd) u.mxcsr f (lane w (xmm u d) j).toNat (lane w b j).toNat)
    (fun u _ l => setX u d (fromElems w l))

/-- A comparison to ZF, PF and CF, the other status flags cleared (46 R1147). -/
def VCompare (mk : RegNum → Rm → Instr) (w : Nat) (f : Fmt) (quiet : Bool) : Prop :=
  ∀ d x, Computes (mk d x) (fun _ => readXmmRm w x) vReady
    (fun u b => [{ pre := sCmpFlags u.mxcsr f quiet (lane w (xmm u d) 0).toNat b.toNat, post := 0, val := 0 }])
    (fun u b _ =>
      let o := sOrder u.mxcsr f (lane w (xmm u d) 0).toNat b.toNat
      [fOF, fSF, fAF].foldl (fun t k => t.setFlag k false)
        (((u.setFlag fZF (o == none || o == some .eq)).setFlag fPF (o == none)).setFlag fCF (o == none || o == some .lt)))

/-- Conversions: two doublewords of an MMX register or memory to floating point; two elements to an MMX register; a general
register or memory to element 0 and back; element 0 between the formats; all elements (46 R1196 to R1201; 47 R1320 to R1335). -/
def FromMmx (mk : RegNum → Rm → Instr) (w : Nat) (f : Fmt) : Prop :=
  let outs (u : State) (v : Word64) : List SOut := (elems 32 2 v).map fun n => sOfInt u.mxcsr f (BitVec.ofNat 32 n)
  let put (u : State) (d : RegNum) (l : List Nat) : State := setX u d (lowSet (2 * w) (xmm u d) (fromElems w l).toNat)
  (∀ d r, Computes (mk d (.reg r)) nothing bothReady (fun u _ => outs u (mm u r)) fun u _ l => asMmx (put u d l)) ∧
  (∀ d m, Computes (mk d (.mem m)) (fun _ => readMem 64 m) vReady outs fun u _ l => put u d l)
def ToMmx (mk : RegNum → Rm → Instr) (w n : Nat) (read : Rm → M (BitVec n)) (f : Fmt) (rc : State → BitVec 2) : Prop :=
  ∀ d x, Computes (mk d x) (fun _ => read x) bothReady (fun u v => (elems w 2 v).map (sToInt u.mxcsr (rc u) f))
    fun u _ l => setMmx u d ((fromElems 32 l).setWidth 64)
def FromGpr (mk : RegNum → Rm → Instr) (w : Nat) (f : Fmt) : Prop :=
  ∀ d x, Computes (mk d x) (fun _ => readRm .d x) vReady (fun u v => [sOfInt u.mxcsr f v])
    fun u _ l => setX u d (lowSet w (xmm u d) (l.headD 0))
def ToGpr (mk : RegNum → Rm → Instr) (w : Nat) (f : Fmt) (rc : State → BitVec 2) : Prop :=
  ∀ d x, Computes (mk d x) (fun _ => readXmmRm w x) vReady (fun u v => [sToInt u.mxcsr (rc u) f v.toNat])
    fun u _ l => u.setReg32 d (BitVec.ofNat 32 (l.headD 0))
def ConvertsLow (mk : RegNum → Rm → Instr) (g w : Nat) (op : Word32 → Nat → SOut) : Prop :=
  ∀ d x, Computes (mk d x) (fun _ => readXmmRm g x) vReady (fun u v => [op u.mxcsr v.toNat])
    fun u _ l => setX u d (lowSet w (xmm u d) (l.headD 0))
def ConvertsAll (mk : RegNum → Rm → Instr) (n g count w : Nat) (read : Rm → M (BitVec n)) (op : State → Nat → SOut) : Prop :=
  ∀ d x, Computes (mk d x) (fun _ => read x) vReady (fun u v => (elems g count v).map (op u))
    fun u _ l => setX u d (fromElems w l)
/-- The rounding mode in MXCSR, and toward zero. -/
def rcOf (u : State) : BitVec 2 := (u.mxcsr >>> 13).setWidth 2
def chop (_ : State) : BitVec 2 := 3

/-- What an operation on elements that are no NaNs gives, by its result on numbers; and the square root of a NaN (46 R1143,
R1144). -/
def ElementResults : Prop :=
  ∀ (mx : Word32) (f : Fmt) (a b : Nat), f = .single ∨ f = .double →
    let out (den : Bool) (o : Op) : SOut :=
      let pre : Byte := if den then 2 else 0
      match o with
      | .invalid => { pre := pre ||| 1, post := 0, val := if f.p = 24 then 0xFFC00000 else 0xFFF8000000000000 }
      | .zeroDiv n =>
        { pre := pre ||| 4, post := 0, val := fpOf f n { exp := (2 * f.emax + 1).toNat, sig := 2 ^ (f.p - 1) } }
      | .val v => { sRound mx f v with pre }
    let rc : BitVec 2 := (mx >>> 13).setWidth 2
    let (x, y) := (sVal mx f a, sVal mx f b)
    let den := sDen mx f a || sDen mx f b
    (sNan f b = true →
      sSqrt mx f a b = { pre := if fpCls f b = .snan then 1 else 0, post := 0, val := b ||| 2 ^ (f.p - 2) }) ∧
    (sNan f b = false → sSqrt mx f a b = out (sDen mx f b) (opSqrt y)) ∧
    (sNan f a = false → sNan f b = false →
      sAdd mx f a b = out den (opAdd rc x y) ∧ sSub mx f a b = out den (opSub rc x y) ∧
      sMul mx f a b = out den (opMul x y) ∧ sDiv mx f a b = out den (opDiv x y))

/-- A comparison to a mask (46 R1146): imm8 bits 1:0 choose equal, less, less or equal, unordered, bit 2 negates, and the
mask is all ones or all zeros; less and less or equal find a quiet NaN invalid. -/
def ElementMasks : Prop :=
  ∀ (mx : Word32) (f : Fmt) (n : Byte) (a b : Nat), f = .single ∨ f = .double →
    let o := sOrder mx f a b
    let k := n.toNat % 8
    let base : Bool := [o == some .eq, o == some .lt, o == some .lt || o == some .eq, o == none].getD (k % 4) false
    let holds : Bool := if k < 4 then base else !base
    sCmp n mx f a b =
      { pre := sCmpFlags mx f ([0, 3, 4, 7].contains k) a b, post := 0
        val := if holds then (if f.p = 24 then 2 ^ 32 - 1 else 2 ^ 64 - 1) else 0 }

/-- Conversions of an element (46 R1148; 47 R1264): an integer is rounded; between the formats a NaN keeps its sign and the
bits of its fraction that fit, quieted, and a number is rounded. -/
def ElementConversions : Prop :=
  (∀ (mx : Word32) (f : Fmt) (v : Word32), f = .single ∨ f = .double →
    sOfInt mx f v =
      if v = 0 then { pre := 0, post := 0, val := 0 }
      else sRound mx f (.fin { neg := v.msb, mant := v.toInt.natAbs, exp := 0 })) ∧
  ∀ (mx : Word32) (g f : Fmt) (v : Nat), (g = .single ∧ f = .double) ∨ (g = .double ∧ f = .single) →
    let frac := if g.p < f.p then v % 2 ^ 23 * 2 ^ 29 else v % 2 ^ 52 / 2 ^ 29
    (sNan g v = true → sConvert mx g f v =
      { pre := if fpCls g v = .snan then 1 else 0, post := 0
        val := fpOf f (fpNeg g v) { exp := (2 * f.emax + 1).toNat, sig := frac ||| 2 ^ (f.p - 2) } }) ∧
    (sNan g v = false → sConvert mx g f v = { sRound mx f (sVal mx g v) with pre := if sDen mx g v then 2 else 0 })

/-! ## The machine -/

/-- No event waits at the boundary before the next instruction, and no instruction breakpoint lies on it (60 R1541). -/
def Quiet (s : State) : Prop :=
  s.activity = .running ∧ s.pending.reset = false ∧ s.redeliver = none ∧ s.smiOpen = false ∧ s.initOpen = false ∧ s.nmiOpen = false ∧ s.intOpen = false ∧
  s.flag fVM = false ∧ (s.traps = 0 ∨ s.ssShadow = true) ∧ s.codeBreaksBad = false ∧ s.codeBreaks = 0

/-- A step leaves what its action leaves, the thermal log bit following the sensor bit (10_state R119). -/
def latched (o : Host.Outcome State Fault Refusal) : Host.Outcome State Fault Refusal :=
  match o with
  | .next t => .next (if t.msr.thermStatus.getLsbD 0 then withMsr t fun r => { r with thermStatus := setBit r.thermStatus 1 true } else t)
  | o => o

/-- Reading the bytes bs of the instruction, the n-th and those after it, leads from one state to another. -/
inductive Fetches : Nat → State → List Byte → State → Prop
  | nil (n : Nat) (s : State) : Fetches n s [] s
  | cons {n : Nat} {s t u : State} {b : Byte} {bs : List Byte} :
      fetchByte n s = .ok b t → Fetches (n + 1) t bs u → Fetches n s (b :: bs) u

/-- The bytes read next decode to i, and no shorter run of them decodes; i is n bytes long, and a byte that could begin
an opcode but turns out to be a prefix is read together with what shows that. -/
def Decodes (s : State) (i : Instr) (t : State) : Prop :=
  ∃ bs u n, Fetches s.cur.len s bs u ∧ s.cur.len + bs.length ≤ 15 ∧
    decode s.decodeCtx bs = .ok i n ∧ (∀ k, k < bs.length → decode s.decodeCtx (bs.take k) = .more) ∧ t = u.addLen n

/-- The bytes at the instruction pointer are prefixes, each with its effect, and then the instruction i, to be run in t. -/
inductive Reads1 : State → Instr → State → Prop
  | instr {s t : State} {i : Instr} : Decodes s i t → isPrefix i = false → Reads1 s i t
  | mark {s t u v : State} {p i : Instr} : Decodes s p t → isPrefix p = true → exec p t = .next u → Reads1 u i v → Reads1 s i v

/-! Memory and the local APIC. -/

/-- A byte stored is read back and the others stay; a number is stored and read least significant byte first at the addresses
given, which with paging off are those of consecutive bytes (20_memory R205, R207). -/
def MemoryLaws : Prop :=
  ∀ s : State,
    (∀ a v, s.canonical → ordinary a →
      physRead8 (physWrite8 s a v) a = v ∧ ∀ b, ordinary b → b ≠ a → physRead8 (physWrite8 s a v) b = physRead8 s b) ∧
    (∀ (as : List Nat) (v : Nat), s.canonical → as.Nodup → (∀ a ∈ as, ordinary a) →
      let t := physWriteNat s v as
      (∀ k (h : k < as.length), (physRead8 t as[k]).toNat = v / 256 ^ k % 256) ∧ physReadNat t as = v % 256 ^ as.length) ∧
    (∀ (as : List Nat) k (h : k < as.length), physReadNat s as / 256 ^ k % 256 = (physRead8 s as[k]).toNat) ∧
    (∀ la n write user, s.paging = false → translateRange la n write user s = .ok (linearBytes la n) s)

/-- The local APIC's page (10_state R170; 60 R1580): the words of ISR, TMR and IRR are read and not written; the task
priority is read and written; the end of an interrupt clears the highest bit in service. -/
def LocalApicPage : Prop :=
  ∀ (s : State) (v : Byte),
    (∀ k j, k < 8 → j < 4 →
      let shows (base : Nat) (r : BitVec 256) : Prop :=
        physRead8 s (base + 16 * k + j) = BitVec.ofNat 8 (r.toNat / 2 ^ (32 * k + 8 * j)) ∧ physWrite8 s (base + 16 * k + j) v = s
      shows 0xFEE00100 s.apic.isr ∧ shows 0xFEE00180 s.apic.tmr ∧ shows 0xFEE00200 s.apic.irr) ∧
    physRead8 s 0xFEE00080 = s.apic.tpr ∧ physWrite8 s 0xFEE00080 v = { s with apic := { s.apic with tpr := v } } ∧
    (s.apic.isr = 0 → physWrite8 s 0xFEE000B0 v = s) ∧
    (∀ n, s.apic.isr.getLsbD n = true → (∀ m, n < m → s.apic.isr.getLsbD m = false) →
      physWrite8 s 0xFEE000B0 v = { s with apic := { s.apic with isr := setBit s.apic.isr n false } })

/-- The vector the local APIC offers: the highest one requested, of a class above those of the task priority and of all in
service (60 R1580). -/
def ApicOffers : Prop :=
  ∀ (a : Apic) (v : Byte), a.offer = some v ↔
    a.irr.getLsbD v.toNat = true ∧ (∀ m, v.toNat < m → a.irr.getLsbD m = false) ∧ a.tpr.toNat / 16 < v.toNat / 16 ∧
      ∀ m, a.isr.getLsbD m = true → m / 16 < v.toNat / 16

/-- Interrupt messages (60 R1590): an aligned doubleword stored in the window outside the local APIC's page is one, and a
byte stored there is lost; what a message does by its delivery mode at the processor it names. -/
def InterruptMessages : Prop :=
  (∀ (s : State) (a v : Nat), 0xFEE01000 ≤ a → a ≤ 0xFEEFFFFF →
    (a % 4 = 0 → physWriteNat s v [a, a + 1, a + 2, a + 3] =
      s.message (BitVec.ofNat 32 a) (BitVec.ofNat 32 v) Config.extVector) ∧
    ∀ b, physWrite8 s a b = s) ∧
  ∀ (s : State) (address data : Word32) (ext : Byte),
    let t := s.message address data ext
    let mode := data.toNat / 2 ^ 8 % 8
    let vector := data.toNat % 256
    let level := data.getLsbD 15
    let id : Byte := BitVec.ofNat 8 (address.toNat / 2 ^ 12)
    let named : Prop :=
      address.toNat / 2 ^ 20 = 0xFEE ∧ (if address.getLsbD 2 then Config.inLogical id = true else id = Config.apicId)
    let pends (p : Pending) : Prop := t = { s with pending := p }
    (¬named ∨ (level = true ∧ data.getLsbD 14 = false) → t = s) ∧
    (named → (level = true → data.getLsbD 14 = true) →
      (mode = 0 ∨ mode = 1 →
        (vector < 16 → t = s) ∧
        (16 ≤ vector → t = { s with
          apic := { s.apic with irr := setBit s.apic.irr vector true, tmr := setBit s.apic.tmr vector level } })) ∧
      (mode = 2 → if vector = 0 then pends { s.pending with smi := true } else t = s) ∧
      (mode = 3 ∨ mode = 6 → t = s) ∧
      (mode = 4 → pends { s.pending with nmi := true }) ∧
      (mode = 5 → pends { s.pending with init := true }) ∧
      (mode = 7 → pends { s.pending with ext := some ext }))

/-! What paging does (20_memory R216 to R236). -/

/-- What the paging structures have for a linear address: the entries used, each with the address it stands at, the upper
first, and the physical address. -/
inductive Found where
  | absent
  | reserved
  | page (entries : List (Nat × Word64)) (pa : Nat)

/-- The structures of 32-bit paging (R217). -/
def found32 (s : State) (la : Word32) : Found :=
  let l := la.toNat
  let pdeA := s.cr3.toNat / 4096 * 4096 + 4 * (l / 2 ^ 22)
  let pde : Word64 := (physRead32 s pdeA).setWidth 64
  let pteA := pde.toNat / 4096 * 4096 + 4 * (l / 2 ^ 12 % 2 ^ 10)
  let pte : Word64 := (physRead32 s pteA).setWidth 64
  if !pde.getLsbD 0 then .absent
  else if pde.getLsbD 7 && s.cr4.getLsbD 4 then
    if pde.toNat / 2 ^ 13 % 2 ^ 9 = 0 then .page [(pdeA, pde)] (pde.toNat / 2 ^ 22 * 2 ^ 22 + l % 2 ^ 22) else .reserved
  else if pte.getLsbD 0 then .page [(pdeA, pde), (pteA, pte)] (pte.toNat / 4096 * 4096 + l % 4096) else .absent

/-- The structures of PAE paging below a page-directory-pointer-table entry (R221 to R228). -/
def foundPae (s : State) (pdpte : Word64) (la : Word32) : Found :=
  let l := la.toNat
  let frame (v : Word64) : Nat := v.toNat / 4096 * 4096
  let pdeA := frame pdpte + 8 * (l / 2 ^ 21 % 2 ^ 9)
  let pde := physRead64 s pdeA
  let pteA := frame pde + 8 * (l / 2 ^ 12 % 2 ^ 9)
  let pte := physRead64 s pteA
  if !pdpte.getLsbD 0 then .absent
  else if pdpteReserved pdpte then .reserved
  else if !pde.getLsbD 0 then .absent
  else if pde.toNat / 2 ^ 36 ≠ 0 then .reserved
  else if pde.getLsbD 7 then
    if pde.toNat / 2 ^ 13 % 2 ^ 8 = 0 then .page [(pdeA, pde)] (pde.toNat / 2 ^ 21 * 2 ^ 21 + l % 2 ^ 21) else .reserved
  else if !pte.getLsbD 0 then .absent
  else if pte.toNat / 2 ^ 36 ≠ 0 then .reserved
  else .page [(pdeA, pde), (pteA, pte)] (frame pte + l % 4096)

def foundAt (s : State) (pdpte : Word64) (la : Word32) : Found := if s.pae then foundPae s pdpte la else found32 s la

/-- The page-directory-pointer-table entry in memory, the processor's copy of it if there is one, and which is used (R228). -/
def pdpteInTable (s : State) (la : Word32) : Word64 := physRead64 s (s.cr3.toNat / 32 * 32 + 8 * (la.toNat / 2 ^ 30))
def pdpteHeld (s : State) (la : Word32) : Word64 :=
  match s.pdpte with
  | none => pdpteInTable s la
  | some (a, b, c, d) => [a, b, c, d].getD (la.toNat / 2 ^ 30) 0
def pdpteUsed (s : State) (la : Word32) (p : Word64) : Prop := p = pdpteInTable s la ∨ p = pdpteHeld s la

/-- Page-level protection (R218). -/
def pageRights (s : State) (us rw write user : Bool) : Bool := (us || !user) && (rw || !write || !(user || s.cr0.getLsbD 16))

/-- The page fault of an access, with the bits P and RSVD of its error code (60 R1525). -/
def pageFault (la : Word32) (write user : Bool) (code : Nat) : Halt :=
  .event { vector := 14, cr2 := some la
           err := some (BitVec.ofNat 32 (code + (if write then 2 else 0) + if user then 4 else 0)) }

/-- What a walk from s gives that leaves all but memory and the cached translations as they are in s'. -/
def Walked (la : Word32) (write user : Bool) (s s' : State) (found : Found) (res : EStateM.Result Halt State Nat) : Prop :=
  match found with
  | .absent => res = .error (pageFault la write user 0) s'
  | .reserved => res = .error (pageFault la write user 9) s'
  | .page entries pa =>
    let all (k : Nat) : Bool := entries.all fun e => e.2.getLsbD k
    let last := (entries.getLast?.map fun e => e.1).getD 0
    if pageRights s (all 2) (all 1) write user then
      ∃ t, res = .ok pa t ∧ t = { s' with mem := t.mem, adMarks := t.adMarks, apic := t.apic, tlb := t.tlb } ∧
        (∃ e, t.tlb = e :: s.tlb.filter (fun x => x.page != la.extractLsb' 12 20) ∧ e.page = la.extractLsb' 12 20 ∧
          e.frame.toNat = pa / 4096 ∧ e.user = all 2 ∧ e.writable = all 1 ∧ (write = true → e.dirty = true)) ∧
        ((∀ e ∈ entries, ordinary e.1) → t.apic = s.apic ∧ ∀ a, ordinary a →
          physRead8 t a = physRead8 s a ||| (if a ∈ entries.map (fun e => e.1) then 0x20 else 0) |||
            (if write = true ∧ a = last then 0x40 else 0))
    else res = .error (pageFault la write user 1) s'

/-- What a cached translation gives. -/
def ByCached (la : Word32) (write user : Bool) (s s' : State) (e : TlbEntry) (res : EStateM.Result Halt State Nat) : Prop :=
  if pageRights s e.user e.writable write user then res = .ok (e.frame.toNat * 4096 + la.toNat % 4096) s'
  else res = .error (pageFault la write user 1) s'

/-- A cached translation is what the structures have. -/
def Describes (s : State) (e : TlbEntry) (found : Found) : Prop :=
  match found with
  | .page entries pa =>
    let all (k : Nat) : Bool := entries.all fun x => x.2.getLsbD k
    let final : Word64 := (entries.getLast?.map fun x => x.2).getD 0
    e.frame.toNat = pa / 4096 ∧ e.size = (if entries.length = 2 then .k4 else if s.pae then .m2 else .m4) ∧
      e.user = all 2 ∧ e.writable = all 1 ∧ all 5 = true ∧ e.dirty = final.getLsbD 6 ∧
      e.global = (final.getLsbD 8 && s.cr4.getLsbD 7)
  | _ => False

/-- Values written one below the other: the first at `at_ 0`. -/
def writeFrame (n : Nat) (at_ : Nat → Word32) (s : State) (vals : List Word32) : State :=
  ((List.range vals.length).zip vals).foldl (fun t p => physWriteNat t p.2.toNat (linearBytes (at_ p.1) n)) s

/-- A stack pointer moved down by k bytes as wide as the stack segment says. -/
def downBy (big : Bool) (esp : Word32) (k : Nat) : Word32 :=
  if big then esp - BitVec.ofNat 32 k
  else BitVec.ofNat 32 (esp.toNat / 2 ^ 16 * 2 ^ 16 + (esp - BitVec.ofNat 32 k).toNat % 2 ^ 16)
/-- The offset of the k-th slot of n bytes below it. -/
def slotOff (big : Bool) (esp : Word32) (n k : Nat) : Word32 :=
  let t := esp - BitVec.ofNat 32 (n * (k + 1))
  if big then t else BitVec.ofNat 32 (t.toNat % 2 ^ 16)

/-- What every delivery leaves besides: the processor runs, and the inhibits and marks are spent. -/
def delivered (t : State) : State :=
  { t with activity := .running, ssShadow := false, stiShadow := false, repBusy := false, lastIo := none }

/-- A 32-bit interrupt or trap gate at an event's entry of the IDT lets it through to the code segment c (60 R1500). -/
structure GateOpen (e : Event) (s : State) (g d : Word64) : Prop where
  protectedMode : s.pe = true
  unpaged : s.paging = false
  notVirtual : s.flag fVM = false
  inside : 8 * e.vector.toNat + 7 ≤ s.idtr.limit.toNat
  gate : g = BitVec.ofNat 64 (readLinear s (s.idtr.base + BitVec.ofNat 32 (8 * e.vector.toNat)) 8)
  kind : (g.toNat / 2 ^ 40 % 32 = 14 ∨ g.toNat / 2 ^ 40 % 32 = 15) ∧ g.getLsbD 47 = true
  allowed : e.kind = .soft → s.cpl.toNat ≤ g.toNat / 2 ^ 45 % 4
  code : isNull (gateSel g) = false ∧ ∃ a, s.descAddr (gateSel g) = some a ∧ d = BitVec.ofNat 64 (readLinear s a 8)
  target : (segOfDesc (gateSel g) d).isCode = true ∧ d.getLsbD 47 = true ∧ d.getLsbD 40 = true ∧
    (segOfDesc (gateSel g) d).dpl ≤ s.cpl ∧ gateOff g ≤ (segOfDesc (gateSel g) d).limit

/-- What delivery raises, with paging off, once the gate g and the descriptor at a of its target are read: the checks of the
target; at its own level the room on the stack and the target's limit; for an inner level first the stack of the TSS and the
checks on the new stack segment (60 R1500, R1512, R1513). -/
def TargetFaults (e : Event) (saved : Word32) (s : State) (g : Word64) (a ext : Word32) : Prop :=
  let raises (v : Byte) (err : Word32) : Prop :=
    ∃ k, deliver e saved s = .error (.event { vector := v, err := some err }) { s with draws := k }
  let c := segOfDesc (gateSel g) (BitVec.ofNat 64 (readLinear s a 8))
  let err : Word32 := selErr (gateSel g) + ext
  let n := if g.toNat / 2 ^ 40 % 32 = 14 ∨ g.toNat / 2 ^ 40 % 32 = 15 then 4 else 2
  let target : Word32 := if n = 4 then gateOff g else BitVec.ofNat 32 ((gateOff g).toNat % 2 ^ 16)
  let pushes := 3 + e.err.toList.length
  let room (r : SegReg) (esp : Word32) (m : Nat) : Prop := ∀ k, k < m → r.limitOk (slotOff r.db esp n k) n = true
  (c.isCode = false ∨ s.cpl < c.dpl → raises 13 err) ∧
  (c.isCode = true → c.dpl ≤ s.cpl →
    (c.p = false → raises 11 err) ∧
    (c.p = true → c.conforming = true ∨ c.dpl = s.cpl →
      (¬room s.ss s.esp pushes → raises 12 0) ∧ (room s.ss s.esp pushes → c.limit < target → raises 13 0)) ∧
    (c.p = true → c.conforming = false → c.dpl < s.cpl →
      let place := 8 * c.dpl.toNat + 4
      let newEsp := BitVec.ofNat 32 (readLinear s (s.tr.base + BitVec.ofNat 32 place) 4)
      let newSs := BitVec.ofNat 16 (readLinear s (s.tr.base + BitVec.ofNat 32 (place + 4)) 2)
      let err := selErr newSs + ext
      (s.tr.typ = 1 ∨ s.tr.typ = 3 → ∃ k, deliver e saved s = .error (.refused .tss16) { s with draws := k }) ∧
      (s.tr.typ ≠ 1 → s.tr.typ ≠ 3 →
        (s.tr.limit.toNat < place + 5 → raises 10 (selErr s.tr.sel + ext)) ∧
        (place + 5 ≤ s.tr.limit.toNat →
          (isNull newSs = true → raises 10 ext) ∧
          (isNull newSs = false → s.descAddr newSs = none → raises 10 err) ∧
          (∀ b, isNull newSs = false → s.descAddr newSs = some b →
            let r := segOfDesc newSs (BitVec.ofNat 64 (readLinear s b 8))
            let fits := selRpl newSs = c.dpl ∧ r.dpl = c.dpl ∧ r.writable = true
            (¬fits → raises 10 err) ∧
            (fits → r.p = false → raises 12 err) ∧
            (fits → r.p = true → ¬room r newEsp (pushes + 2) → raises 12 err) ∧
            (fits → r.p = true → room r newEsp (pushes + 2) → c.limit < target → raises 13 0))))))

/-- EFLAGS in the handler: IF cleared through an interrupt gate; TF, NT, RF and VM cleared (60 R1507). -/
def inHandler (g : Word64) (t : State) : State :=
  let t := if g.toNat / 2 ^ 40 % 32 = 14 then t.setFlag fIF false else t
  (((t.setFlag fTF false).setFlag fNT false).setFlag fRF false).setFlag fVM false

end Sys2Proof.Claims

open Sys2Proof Sys2Proof.Machine Sys2Proof.Claims



/-! ## Prefixes and LOCK -/

/-- Each prefix byte sets its mark for the instruction that follows and changes nothing else (30_encoding R310 to R314);
that a prefix is an instruction of its own, and that F2 and F3 together are noted, is the model's choice (log 4). LOCK
before an instruction that does not take it, or whose destination is no memory, is #UD, whatever else the instruction does
(20_memory R260). -/
def Obligations.PrefixEffects : Prop :=
  (∀ s : State,
   exec .lock s = .next { s with cur := { s.cur with lock := true } } ∧
   exec .repne s = .next { s with cur := { s.cur with rep := some false, mix := s.cur.mix || s.cur.rep == some true } } ∧
   exec .rep s = .next { s with cur := { s.cur with rep := some true, mix := s.cur.mix || s.cur.rep == some false } } ∧
   exec .csOverride s = .next { s with cur := { s.cur with seg := some .cs } } ∧
   exec .ssOverride s = .next { s with cur := { s.cur with seg := some .ss } } ∧
   exec .dsOverride s = .next { s with cur := { s.cur with seg := some .ds } } ∧
   exec .esOverride s = .next { s with cur := { s.cur with seg := some .es } } ∧
   exec .fsOverride s = .next { s with cur := { s.cur with seg := some .fs } } ∧
   exec .gsOverride s = .next { s with cur := { s.cur with seg := some .gs } } ∧
   exec .opSizeOverride s = .next { s with cur := { s.cur with opsz := true } } ∧
   exec .addrSizeOverride s = .next { s with cur := { s.cur with adsz := true } }) ∧
  (∀ (i : Instr) (s : State), s.cur.lock = true → isPrefix i = false →
   (match i with
    | .add f | .or f | .adc f | .sbb f | .and f | .sub f | .xor f => aluLock f = false
    | .inc f | .dec f => incLock f = false
    | .not _ x | .neg _ x | .xadd _ x _ | .cmpxchg _ x _ | .xchg (.rmReg _ x _) => lockable x = false
    | .bts f | .btr f | .btc f => bitLock f = false
    | .cmpxchg8b _ => False
    | _ => True) →
   exec i s = takeEvent { vector := 6 } s.eip s.eip (s.forEvent s.begin .fault))

/-! ## Arithmetic and logic (40) -/

/-- ADD, ADC, SUB and SBB in every form: the destination gets the sum or difference (40 R460, R462, R463, R465); the flags
are those of `FlagFormulasAndConditions`. AND, OR and XOR in every form, NOT (40 R461, R464, R466, R473): AF is undefined
but for NOT, which has no flags. -/
def Obligations.AdditionSubtractionAndLogic : Prop :=
  (AluStores .add [] (fun _ a b _ => a + b) (fun _ u a b _ => u.addFlags a b false) ∧
   AluStores .adc [] (fun _ a b c => a + b + (if c then 1 else 0)) (fun _ u a b c => u.addFlags a b c) ∧
   AluStores .sub [] (fun _ a b _ => a - b) (fun _ u a b _ => u.subFlags a b false) ∧
   AluStores .sbb [] (fun _ a b c => a - b - (if c then 1 else 0)) (fun _ u a b c => u.subFlags a b c)) ∧
  (AluStores .and [fAF] (fun _ a b _ => a &&& b) (fun _ u a b _ => logical u (a &&& b)) ∧
   AluStores .or [fAF] (fun _ a b _ => a ||| b) (fun _ u a b _ => logical u (a ||| b)) ∧
   AluStores .xor [fAF] (fun _ a b _ => a ^^^ b) (fun _ u a b _ => logical u (a ^^^ b)) ∧
   Unary .not (fun _ a => ~~~a) (fun _ u _ => u))

/-- CMP and TEST write flags only, in every form (40 R467, R474); INC, DEC and NEG (R470 to R472), where INC and DEC leave
CF alone. -/
def Obligations.CompareTestAndUnary : Prop :=
  (∀ w x r, Reads (.cmp (.rmReg w x r)) [] (·.wsz w) x fun sz u a => u.subFlags a (u.readReg sz r) false) ∧
  (∀ w x r, Reads (.cmp (.regRm w r x)) [] (·.wsz w) x fun sz u b => u.subFlags (u.readReg sz r) b false) ∧
  (∀ k w x i, Reads (.cmp (.rmImm k w x i)) [] (·.wsz w) x fun sz u a => u.subFlags a (immVal sz i) false) ∧
  (∀ i, Acts (.cmp (.accImm i)) [] fun u => u.subFlags (u.readReg (immSz i) rAX) (immVal (immSz i) i) false) ∧
  (∀ w x r, Reads (.test (.rmReg w x r)) [fAF] (·.wsz w) x fun sz u a => logical u (a &&& u.readReg sz r)) ∧
  (∀ x i, Reads (.test (.rmImm x i)) [fAF] (·.wsz (immSz i != .b)) x fun sz u a => logical u (a &&& immVal sz i)) ∧
  (∀ i, Acts (.test (.accImm i)) [fAF] fun u => logical u (u.readReg (immSz i) rAX &&& immVal (immSz i) i)) ∧
  Unary (fun w x => .inc (.rm w x)) (fun _ a => a + 1) (fun _ u a => (u.addFlags a 1 false).setFlag fCF (u.flag fCF)) ∧
  Unary (fun w x => .dec (.rm w x)) (fun _ a => a - 1) (fun _ u a => (u.subFlags a 1 false).setFlag fCF (u.flag fCF)) ∧
  (∀ r, Acts (.inc (.reg r)) [] fun u =>
    ((u.addFlags (u.readReg u.osz r) 1 false).setFlag fCF (u.flag fCF)).writeReg u.osz r (u.readReg u.osz r + 1)) ∧
  (∀ r, Acts (.dec (.reg r)) [] fun u =>
    ((u.subFlags (u.readReg u.osz r) 1 false).setFlag fCF (u.flag fCF)).writeReg u.osz r (u.readReg u.osz r - 1)) ∧
  Unary .neg (fun _ a => -a) (fun _ u a => (u.subFlags 0 a false).setFlag fCF (a != 0))

/-- The flags of an addition and a subtraction, bit by bit (10_state R49): CF and OF say that the exact unsigned or signed
result does not fit; no other bit of EFLAGS changes. The sixteen conditions tttn (10_state R52). -/
def Obligations.FlagFormulasAndConditions : Prop :=
  (∀ (sz : Sz) (a b : BitVec sz.bits) (c : Bool) (s : State),
   let k : Nat := if c then 1 else 0
   let standard (t : State) (r : BitVec sz.bits) : Prop :=
     t.flag fZF = decide (r.toNat = 0) ∧ t.flag fSF = decide (r.toInt < 0) ∧
     t.flag fPF = decide ((((List.range 8).filter fun i => r.getLsbD i).length) % 2 = 0) ∧
     ∀ i, i ∉ [fCF, fPF, fAF, fZF, fSF, fOF] → t.flag i = s.flag i
   let add := s.addFlags a b c
   let sub := s.subFlags a b c
   (add.flag fCF = decide (2 ^ sz.bits ≤ a.toNat + b.toNat + k) ∧
    add.flag fOF = decide ((a + b + BitVec.ofNat _ k).toInt ≠ a.toInt + b.toInt + k) ∧
    add.flag fAF = decide (16 ≤ a.toNat % 16 + b.toNat % 16 + k) ∧
    standard add (a + b + BitVec.ofNat _ k) ∧ add = { s with eflags := add.eflags }) ∧
   (sub.flag fCF = decide (a.toNat < b.toNat + k) ∧
    sub.flag fOF = decide ((a - b - BitVec.ofNat _ k).toInt ≠ a.toInt - b.toInt - k) ∧
    sub.flag fAF = decide (a.toNat % 16 < b.toNat % 16 + k) ∧
    standard sub (a - b - BitVec.ofNat _ k) ∧ sub = { s with eflags := sub.eflags })) ∧
  (∀ s : State,
   let o := s.flag fOF; let c := s.flag fCF; let z := s.flag fZF; let n := s.flag fSF; let p := s.flag fPF
   (s.cond 0x0 ↔ o = true) ∧ (s.cond 0x1 ↔ o = false) ∧ (s.cond 0x2 ↔ c = true) ∧ (s.cond 0x3 ↔ c = false) ∧
   (s.cond 0x4 ↔ z = true) ∧ (s.cond 0x5 ↔ z = false) ∧
   (s.cond 0x6 ↔ c = true ∨ z = true) ∧ (s.cond 0x7 ↔ c = false ∧ z = false) ∧
   (s.cond 0x8 ↔ n = true) ∧ (s.cond 0x9 ↔ n = false) ∧ (s.cond 0xA ↔ p = true) ∧ (s.cond 0xB ↔ p = false) ∧
   (s.cond 0xC ↔ n ≠ o) ∧ (s.cond 0xD ↔ n = o) ∧
   (s.cond 0xE ↔ z = true ∨ n ≠ o) ∧ (s.cond 0xF ↔ z = false ∧ n = o))

/-- MUL and the three forms of IMUL (40 R480 to R483): the product in full or truncated, CF and OF alike when the upper half
is significant, SF, ZF, AF and PF undefined. DIV and IDIV (40 R484, R485): quotient truncated toward zero and remainder, all
status flags undefined; a zero divisor or a quotient that does not fit is #DE. -/
def Obligations.MultiplicationAndDivision : Prop :=
  (let und := [fSF, fZF, fAF, fPF]
   let signed (w : Nat) (p : Int) : Bool := !(decide (-(2 ^ (w - 1) : Int) ≤ p) && decide (p < (2 ^ (w - 1) : Int)))
   (∀ w x, Reads (.mul w x) und (·.wsz w) x fun sz u v =>
     let p := (u.readReg sz rAX).toNat * v.toNat
     let big := decide (p / 2 ^ sz.bits ≠ 0)
     ((u.setFlag fCF big).setFlag fOF big).setWide sz (BitVec.ofNat 64 p)) ∧
   (∀ w x, Reads (.imulAcc w x) und (·.wsz w) x fun sz u v =>
     let p := (u.readReg sz rAX).toInt * v.toInt
     ((u.setFlag fCF (signed sz.bits p)).setFlag fOF (signed sz.bits p)).setWide sz (BitVec.ofInt 64 p)) ∧
   (∀ r x, Reads (.imulRm r x) und State.osz x fun sz u v =>
     let p := (u.readReg sz r).toInt * v.toInt
     ((u.setFlag fCF (signed sz.bits p)).setFlag fOF (signed sz.bits p)).writeReg sz r (u.readReg sz r * v)) ∧
   (∀ r x i, Reads (.imulImm r x i) und State.osz x fun sz u v =>
     let p := v.toInt * (immVal sz i).toInt
     ((u.setFlag fCF (signed sz.bits p)).setFlag fOF (signed sz.bits p)).writeReg sz r (v * immVal sz i))) ∧
  (Divides .div (fun _ v => v.toNat) (fun w q => decide (q < (2 ^ w : Int))) ∧
   Divides .idiv (fun _ v => v.toInt) (fun w q => decide (-(2 ^ (w - 1) : Int) ≤ q) && decide (q < (2 ^ (w - 1) : Int))))

/-- The shifts and rotates in every form (40 R490 to R497): result, last bit out in CF, OF for a count of 1. The model's
choices in it: log 18, and that a shift by zero only reads its operand for data breakpoints (log 10). -/
def Obligations.ShiftsAndRotates : Prop :=
  Shifts .rol false (fun _ _ a c => a.rotateLeft c) (fun _ _ a c => some ((a.rotateLeft c).getLsbD 0))
    (fun sz _ a => a.getLsbD (sz.bits - 1) != a.getLsbD (sz.bits - 2)) ∧
  Shifts .ror false (fun _ _ a c => a.rotateRight c) (fun _ _ a c => some (a.rotateRight c).msb)
    (fun sz _ a => a.getLsbD 0 != a.getLsbD (sz.bits - 1)) ∧
  Shifts .rcl false (fun sz cf a c => ((BitVec.cons cf a).rotateLeft c).setWidth sz.bits)
    (fun _ cf a c => some ((BitVec.cons cf a).rotateLeft c).msb)
    (fun sz _ a => a.getLsbD (sz.bits - 1) != a.getLsbD (sz.bits - 2)) ∧
  Shifts .rcr false (fun sz cf a c => ((BitVec.cons cf a).rotateRight c).setWidth sz.bits)
    (fun _ cf a c => some ((BitVec.cons cf a).rotateRight c).msb) (fun _ cf a => a.msb != cf) ∧
  Shifts .shl true (fun _ _ a c => BitVec.ofNat _ (a.toNat * 2 ^ c))
    (fun sz _ a c => if c ≤ sz.bits then some ((a.toNat * 2 ^ c).testBit sz.bits) else none)
    (fun sz _ a => a.getLsbD (sz.bits - 1) != a.getLsbD (sz.bits - 2)) ∧
  Shifts .shr true (fun _ _ a c => BitVec.ofNat _ (a.toNat / 2 ^ c))
    (fun sz _ a c => if c ≤ sz.bits then some ((a.toNat * 2).testBit c) else none) (fun _ _ a => a.msb) ∧
  Shifts .sar true (fun _ _ a c => BitVec.ofInt _ (a.toInt / 2 ^ c))
    (fun _ _ a c => some (decide (a.toInt / 2 ^ (c - 1) % 2 = 1))) (fun _ _ _ => false)

/-- SHLD and SHRD (40 R498, R499), the bit instructions (R510 to R513) and the bit scans (R514, R515) in every form; a count
above the operand size, and a scan of zero, leave a free value in the destination. The model's choices in it: log 18, and
that a double shift by zero only reads its operand for data breakpoints (log 10), and that the address of a register bit
offset wraps at the address size (log 47). -/
def Obligations.DoubleShiftsAndBits : Prop :=
  DoubleShifts .shld (fun sz a b c => ((a ++ b) <<< c).extractLsb' sz.bits sz.bits) (fun sz a c => a.getLsbD (sz.bits - c)) ∧
  DoubleShifts .shrd (fun sz a b c => ((b ++ a) >>> c).extractLsb' 0 sz.bits) (fun _ a c => a.getLsbD (c - 1)) ∧
  BitTests .bt none ∧
  BitTests .bts (some fun w a i => a ||| (1#w <<< i)) ∧
  BitTests .btr (some fun w a i => a &&& ~~~(1#w <<< i)) ∧
  BitTests .btc (some fun w a i => a ^^^ (1#w <<< i)) ∧
  BitScan .bsf min ∧ BitScan .bsr max

/-- XADD, CMPXCHG and CMPXCHG8B (40 R530 to R532), BSWAP and SETcc (R516, R517); BSWAP of a 16-bit operand leaves a free
value. -/
def Obligations.ExchangeAndBytes : Prop :=
  (∀ w x r, Changes (.xadd w x r) (lockable x) [] (·.wsz w) x (fun sz u a => a + u.readReg sz r)
    (fun sz u a => (u.addFlags a (u.readReg sz r) false).writeReg sz r a)) ∧
  (∀ w x r sz, When (.cmpxchg w x r) (lockable x) (fun _ => locate sz x true) (fun u _ => u.wsz w == sz)
    (fun u l =>
      let a := u.look sz l
      let g := u.subFlags (u.readReg sz rAX) a false
      if u.readReg sz rAX = a then g.place sz l (u.readReg sz r) else (g.place sz l a).writeReg sz rAX a)
    (stored := fun _ l => l.bytes)) ∧
  (∀ m, When (.cmpxchg8b m) true (fun _ => memAddrs m 8 true) always
    (fun u as =>
      let v : Word64 := BitVec.ofNat 64 (physReadNat u as)
      if u.readReg .d rDX ++ u.readReg .d rAX = v then
        physWriteNat (u.setFlag fZF true) (u.readReg .d rCX ++ u.readReg .d rBX).toNat as
      else ((physWriteNat (u.setFlag fZF false) v.toNat as).writeReg .d rAX (v.extractLsb' 0 32)).writeReg .d rDX
        (v.extractLsb' 32 32))
    (stored := fun _ as => as)) ∧
  (∀ r, When (.bswap r) false nothing (fun u _ => u.os32) fun u _ =>
    let v := (u.readReg .d r).toNat
    u.writeReg .d r (BitVec.ofNat 32
      ((v % 256) * 2 ^ 24 + (v / 2 ^ 8 % 256) * 2 ^ 16 + (v / 2 ^ 16 % 256) * 2 ^ 8 + v / 2 ^ 24))) ∧
  (∀ r, WhenOpen (.bswap r) nothing (fun u _ => !u.os32) fun u _ v => u.writeReg .d r v) ∧
  (∀ cc x, Writes (.setcc cc x) (fun _ => .b) x fun _ u => if u.cond cc then 1 else 0)

/-- The flag instructions (40 R540 to R546). The decimal adjustments (40 R560 to R565); AAM by zero is #DE. -/
def Obligations.FlagsAndDecimalAdjustment : Prop :=
  (Acts .clc [] (·.setFlag fCF false) ∧ Acts .stc [] (·.setFlag fCF true) ∧
   Acts .cmc [] (fun u => u.setFlag fCF (!u.flag fCF)) ∧
   Acts .cld [] (·.setFlag fDF false) ∧ Acts .std [] (·.setFlag fDF true) ∧
   Acts .lahf [] (fun u => u.writeReg .b rAH
     (BitVec.ofBoolListLE [u.flag fCF, true, u.flag fPF, false, u.flag fAF, false, u.flag fZF, u.flag fSF] : Byte)) ∧
   Acts .sahf [] (fun u =>
     let v := u.readReg .b rAH
     ((((u.setFlag fCF (v.getLsbD 0)).setFlag fPF (v.getLsbD 2)).setFlag fAF (v.getLsbD 4)).setFlag fZF (v.getLsbD 6)).setFlag
       fSF (v.getLsbD 7))) ∧
  (let low (u : State) : Bool := decide (9 < (u.readReg .b rAX).toNat % 16) || u.flag fAF
   let high (u : State) : Bool := decide (0x99 < (u.readReg .b rAX).toNat) || u.flag fCF
   let ascii (u : State) (k : Word16) : State :=
     let ax : Word16 := u.readReg .w rAX + (if low u then k else 0)
     ((u.setFlag fAF (low u)).setFlag fCF (low u)).writeReg .w rAX (ax &&& 0xFF0F)
   Acts .aaa [fOF, fSF, fZF, fPF] (fun u => ascii u 0x106) ∧
   Acts .aas [fOF, fSF, fZF, fPF] (fun u => ascii u (-0x106)) ∧
   Acts .daa [fOF] (fun u =>
     let r : Byte := u.readReg .b rAX + (if low u then 6 else 0) + (if high u then 0x60 else 0)
     (((u.setFlag fAF (low u)).setFlag fCF (high u)).resultFlags r).writeReg .b rAX r) ∧
   Acts .das [fOF] (fun u =>
     let al : Byte := u.readReg .b rAX
     let r : Byte := al - (if low u then 6 else 0) - (if high u then 0x60 else 0)
     (((u.setFlag fAF (low u)).setFlag fCF (high u || (low u && decide (al.toNat < 6)))).resultFlags r).writeReg .b rAX r) ∧
   (∀ n, When (.aam n) false nothing (fun _ _ => n != 0) (und := fun _ _ => [fOF, fAF, fCF]) fun u _ =>
     let al := (u.readReg .b rAX).toNat
     ((u.resultFlags (BitVec.ofNat 8 (al % n.toNat))).writeReg .b rAH (BitVec.ofNat 8 (al / n.toNat))).writeReg .b rAX
       (BitVec.ofNat 8 (al % n.toNat))) ∧
   Traps (.aam 0) nothing always { vector := 0 } ∧
   (∀ n, Acts (.aad n) [fOF, fAF, fCF] fun u =>
     let r : Byte := u.readReg .b rAX + u.readReg .b rAH * n
     (u.resultFlags r).writeReg .w rAX (r.setWidth 16)))

/-! ## Data movement (41) -/

/-- MOV to and from registers, memory, offsets and segment registers, MOVSX and MOVZX, XCHG (41 R600 to R606). -/
def Obligations.Moves : Prop :=
  let immSize (i : Imm) (u : State) : Sz := if immSz i = .b then .b else u.osz
  (∀ w x r, Writes (.mov (.rmReg w x r)) (·.wsz w) x fun sz u => u.readReg sz r) ∧
  (∀ w r x, Reads (.mov (.regRm w r x)) [] (·.wsz w) x fun sz u v => u.writeReg sz r v) ∧
  (∀ x i, Writes (.mov (.rmImm x i)) (immSize i) x fun sz _ => immVal sz i) ∧
  (∀ r i, Acts (.mov (.regImm r i)) [] fun u => u.writeReg (immSize i u) r (immVal _ i)) ∧
  (∀ w o sz, When (.movFromOffs w o) false (fun u => loadMem sz.bits (u.dataSeg .ds) (moffsVal o)) (fun u _ => u.wsz w == sz)
    fun u v => u.writeReg sz rAX v) ∧
  (∀ w o sz, When (.movToOffs w o) false (fun u => dataAddrs (u.dataSeg .ds) (moffsVal o) sz.bytes true)
    (fun u _ => u.wsz w == sz) (fun u as => physWriteNat u (u.readReg sz rAX).toNat as) (stored := fun _ as => as)) ∧
  (∀ r sr, Acts (.movFromSeg (.reg r) sr) [] fun u => u.writeReg u.osz r ((u.seg sr).sel.setWidth _)) ∧
  (∀ m sr, When (.movFromSeg (.mem m) sr) false (fun _ => memAddrs m 2 true) always
    (fun u as => physWriteNat u (u.seg sr).sel.toNat as) (stored := fun _ as => as)) ∧
  (∀ w r x, Reads (.movsx w r x) [] (fun _ => extSz w) x fun _ u v => u.writeReg u.osz r (BitVec.ofInt _ v.toInt)) ∧
  (∀ w r x, Reads (.movzx w r x) [] (fun _ => extSz w) x fun _ u v => u.writeReg u.osz r (BitVec.ofNat _ v.toNat)) ∧
  (∀ w x r, Changes (.xchg (.rmReg w x r)) (lockable x) [] (·.wsz w) x (fun sz u _ => u.readReg sz r)
    (fun sz u a => u.writeReg sz r a)) ∧
  (∀ r, Acts (.xchg (.acc r)) [] fun u =>
    (u.writeReg u.osz rAX (u.readReg u.osz r)).writeReg u.osz r (u.readReg u.osz rAX))

/-- LEA, CMOVcc, CBW and CWDE, CWD and CDQ, XLAT, NOP (41 R607 to R612); CMOVcc reads its operand whether or not it moves.
The offset of a memory operand, modulo the address size (30_encoding R341 to R344), and its segment (R345). -/
def Obligations.AddressesAndConversions : Prop :=
  ((∀ r m, Acts (.lea r m) [] fun u => u.writeReg u.osz r (BitVec.ofNat _ (u.ea m).toNat)) ∧
   (∀ cc r x, Reads (.cmovcc cc r x) [] State.osz x fun sz u v => if u.cond cc then u.writeReg sz r v else u) ∧
   Acts .cbw [] (fun u =>
     if u.os32 then u.writeReg .d rAX (BitVec.ofInt 32 (u.readReg .w rAX).toInt)
     else u.writeReg .w rAX (BitVec.ofInt 16 (u.readReg .b rAX).toInt)) ∧
   Acts .cwd [] (fun u => u.writeReg u.osz rDX (BitVec.ofInt _ ((u.readReg u.osz rAX).toInt / 2 ^ u.osz.bits))) ∧
   When .xlat false (fun u => loadMem 8 (u.dataSeg .ds) (u.maskAs (u.reg32 rBX + (u.readReg .b rAX).setWidth 32))) always
     (fun u v => u.writeReg .b rAX v) ∧
   Acts .nop [] (fun u => u)) ∧
  (∀ s : State,
   let reg (r : RegNum) : Int := (s.reg32 r).toNat
   let d16 (d : Disp16) : Int := match d with | .none => 0 | .d8 d => d.toInt | .d16 d => d.toInt
   let d32 (d : Disp32) : Int := match d with | .none => 0 | .d8 d => d.toInt | .d32 d => d.toInt
   let offset (m : MemRef) (w : Nat) (v : Int) : Prop := ((s.ea m).toNat : Int) = v % 2 ^ w
   let index (i : RegNum) (sc : BitVec 2) : Int := if i = rSP then 0 else reg i * 2 ^ sc.toNat
   (∀ d, offset (.base16 0 d) 16 (reg rBX + reg rSI + d16 d) ∧ offset (.base16 1 d) 16 (reg rBX + reg rDI + d16 d) ∧
     offset (.base16 2 d) 16 (reg rBP + reg rSI + d16 d) ∧ offset (.base16 3 d) 16 (reg rBP + reg rDI + d16 d) ∧
     offset (.base16 4 d) 16 (reg rSI + d16 d) ∧ offset (.base16 5 d) 16 (reg rDI + d16 d) ∧
     offset (.base16 6 d) 16 (reg rBP + d16 d) ∧ offset (.base16 7 d) 16 (reg rBX + d16 d)) ∧
   (∀ d, offset (.abs16 d) 16 d.toNat) ∧ (∀ d, offset (.abs32 d) 32 d.toNat) ∧
   (∀ b d, offset (.base32 b d) 32 (reg b + d32 d)) ∧
   (∀ sc i b d, offset (.sib sc i b d) 32 (reg b + index i sc + d32 d)) ∧
   (∀ sc i d, offset (.sibAbs sc i d) 32 (index i sc + d.toNat)) ∧
   (∀ m, s.memSeg m = match s.cur.seg with
     | some o => o
     | none => match m with
       | .base16 r _ => if r = 2 ∨ r = 3 ∨ r = 6 then .ss else .ds
       | .base32 r _ => if r = rBP then .ss else .ds
       | .sib _ _ r _ => if r = rSP ∨ r = rBP then .ss else .ds
       | .abs16 _ | .abs32 _ | .sibAbs _ _ _ => .ds))

/-- The loads of segment registers: MOV, POP, LDS, LES, LSS, LFS, LGS (41 R603, R624, R641), with LoadSeg's answer as the
second part gives it; a load of SS starts the inhibit of one instruction, and MOV to CS is #UD. LoadSeg (41 R640) in
real-address mode gives the selector and sixteen times it as the base, limit and rights as they were; in protected mode by
the descriptor d read from the selector's table: what it answers and what it raises; a register takes base, limit and rights
from d (20_memory R211). The descriptor's accessed bit is set. The model's choices in it: log 25, and that POP SS moves the
stack pointer by the width of the old SS (log 38), and that the second part of a two-part operand wraps at the address size
(log 47). -/
def Obligations.SegmentLoads : Prop :=
  ((∀ sr x, Leaves (.movToSeg sr x)
     (fun _ => do
       let sel : Word16 ← readRm .w x
       return (sel, ← newSeg sr sel))
     (fun _ _ => sr != .cs) (fun u (_, g) => segLoaded u sr g) (stored := fun u (sel, _) => descByte u sel) (whole := false)) ∧
   (∀ x, Traps (.movToSeg .cs x) nothing always { vector := 6 }) ∧
   (∀ sr, Leaves (.pop (.seg sr))
     (fun u => do
       let v ← peek u.osz.bytes 0
       return (v.setWidth 16, ← newSeg sr (v.setWidth 16)))
     (fun _ _ => sr != .cs) (fun u (_, g) => withEsp (segLoaded u sr g) (espUp u u.osz.bytes))
     (stored := fun u (sel, _) => descByte u sel) (whole := false)) ∧
   FarLoads .lds .ds ∧ FarLoads .les .es ∧ FarLoads .lss .ss ∧ FarLoads .lfs .fs ∧ FarLoads .lgs .gs) ∧
  ((∀ sg sel s, s.pe = false →
     newSeg sg sel s = .ok { s.seg sg with sel, base := BitVec.ofNat 32 (sel.toNat * 16) } s) ∧
   (∀ sg sel s, s.pe = true → sg ≠ .ss → isNull sel = true → newSeg sg sel s = .ok (nullSeg sel) s) ∧
   (∀ sel s, s.pe = true → isNull sel = true →
     newSeg .ss sel s = .error (.event { vector := 13, err := some 0 }) s) ∧
   (∀ sg sel s, s.pe = true → isNull sel = false → s.descAddr sel = none →
     newSeg sg sel s = .error (.event { vector := 13, err := some (selErr sel) }) s) ∧
   (∀ sg sel s a n t, s.pe = true → isNull sel = false → s.descAddr sel = some a → sysRead a 8 s = .ok n t →
     let d := BitVec.ofNat 64 n
     let r := segOfDesc sel d
     let good :=
       if sg = .ss then r.writable && r.dpl == s.cpl && selRpl sel == s.cpl
       else r.readable && (r.conforming || (s.cpl ≤ r.dpl && selRpl sel ≤ r.dpl))
     (good = false → newSeg sg sel s = .error (.event { vector := 13, err := some (selErr sel) }) t) ∧
     (good = true → r.p = false →
       newSeg sg sel s = .error (.event { vector := if sg = .ss then 12 else 11, err := some (selErr sel) }) t) ∧
     (good = true → r.p = true → d.getLsbD 40 = true → newSeg sg sel s = .ok r t) ∧
     (good = true → r.p = true → d.getLsbD 40 = false → t.paging = false →
       newSeg sg sel s = .ok { r with typ := r.typ ||| 1 } (physWrite8 t (a + 5).toNat (d.extractLsb' 40 8 ||| 1)))) ∧
   (∀ sel (d : Word64),
     let r := segOfDesc sel d
     let limit := d.toNat % 2 ^ 16 + d.toNat / 2 ^ 48 % 2 ^ 4 * 2 ^ 16
     r.base.toNat = d.toNat / 2 ^ 16 % 2 ^ 24 + d.toNat / 2 ^ 56 * 2 ^ 24 ∧
     r.limit.toNat = (if d.getLsbD 55 then limit * 4096 + 4095 else limit) ∧
     r.typ.toNat = d.toNat / 2 ^ 40 % 16 ∧ r.s = d.getLsbD 44 ∧ r.dpl.toNat = d.toNat / 2 ^ 45 % 4 ∧
     r.p = d.getLsbD 47 ∧ r.db = d.getLsbD 54 ∧ r.sel = sel))

/-- PUSH in every form, PUSHF and PUSHA (41 R620 to R622, R625, R630): the stack pointer as wide as SS says, the pushed
bytes below it; in real-address mode a push with SP = 1 shuts the processor down. So does PUSHA where SP comes to 1 after
some of its pushes, as any odd SP up to 15, or with a 32-bit operand size SP = 1, 5, ..., 29, does; with a 32-bit operand
size an SP of 2 or 3 at a push, the other odd SP, is #SS(0), since the doubleword passes FFFFH (20_memory R212). The model's
choices in it: the upper half of a pushed selector (log 3), and that a push with SP = 1 shuts down in SMM too (log 38). -/
def Obligations.Pushes : Prop :=
  (∀ x sz, When (.push (.rm x)) false
    (fun u => do
      let v ← readRm sz x
      return (v, ← pushSlot u))
    (fun u _ => u.osz == sz) (fun u (v, as) => pushed u v.toNat as) (stored := fun _ p => p.2)) ∧
  (∀ r, When (.push (.reg r)) false pushSlot always (fun u as => pushed u (u.readReg u.osz r).toNat as)
    (stored := fun _ as => as)) ∧
  (∀ i, When (.push (.imm i)) false pushSlot always (fun u as => pushed u (immVal u.osz i).toNat as)
    (stored := fun _ as => as)) ∧
  (∀ sr, When (.push (.seg sr)) false pushSlot (fun u _ => !u.os32) (fun u as => pushed u (u.seg sr).sel.toNat as)
    (stored := fun _ as => as)) ∧
  (∀ sr, WhenOpen (.push (.seg sr)) pushSlot (fun u _ => u.os32)
    (fun u as (v : Word16) => pushed u (v ++ (u.seg sr).sel).toNat as) (stored := fun _ as => as)) ∧
  When .pushf false pushSlot always (fun u as => pushed u (u.eflags &&& 0x00FCFFFF).toNat as) (stored := fun _ as => as) ∧
  When .pusha false (fun u => do return (← pushSlots u.osz.bytes u.esp 8).1) always
    (fun u slots => withEsp
      (writeAll u ([rAX, rCX, rDX, rBX, rSP, rBP, rSI, rDI].map fun r => (u.readReg u.osz r).toNat) slots)
      (espDown u (8 * u.osz.bytes)))
    (stored := fun _ slots => slots.flatten) ∧
  (∀ r, ShutsDown (.push (.reg r)) nothing (fun u _ => spOne u)) ∧
  (∀ i, ShutsDown (.push (.imm i)) nothing (fun u _ => spOne u)) ∧
  (∀ x sz, ShutsDown (.push (.rm x)) (fun _ => readRm sz x) (fun u _ => u.osz == sz && spOne u)) ∧
  (∀ sr, ShutsDown (.push (.seg sr)) (fun u => selSlot u.osz.bytes (u.seg sr).sel) (fun u _ => spOne u)) ∧
  ShutsDown .pushf nothing (fun u _ => spOne u) ∧ ShutsDown .pusha nothing (fun u _ => spOne u) ∧
  (∀ k, k < 8 →
    let after (u : State) (n : Nat) : Word32 := u.stackOff (espDown u (k * n))
    ShutsDown .pusha (fun u => pushSlots u.osz.bytes u.esp k) (fun u _ => !u.pe && after u u.osz.bytes == 1) ∧
    Traps .pusha (fun u => pushSlots 4 u.esp k)
      (fun u _ => u.os32 && !u.pe && !u.inSmm && (after u 4 == 2 || after u 4 == 3)) { vector := 12, err := some 0 })

/-- POP in its register and memory forms, POPF, POPA, ENTER and LEAVE (41 R623 to R633): a popped value is written after the
stack pointer has moved, POPF loads the bits that privilege and operand size allow; ENTER checks its accesses in their order
(R632) and copies a frame pointer for each level above the first. The model's choices in it: how wide ENTER's frame pointer
is by SS.B, that POPA reads the slot it skips and POP SS uses the old width (log 38), and that POPF with a 32-bit operand
clears RF, as R631 says against 10_state R54 (log 41). -/
def Obligations.PopsAndFrames : Prop :=
  (∀ r, When (.pop (.reg r)) false (fun u => peek u.osz.bytes 0) always
    fun u v => (withEsp u (espUp u u.osz.bytes)).writeReg u.osz r (v.setWidth _)) ∧
  (∀ x sz, When (.pop (.rm x)) false
    (fun u => do
      let v ← peek sz.bytes 0
      setEsp (espUp u sz.bytes)
      return (v, ← locate sz x true))
    (fun u _ => u.osz == sz) (fun u (v, l) => (withEsp u (espUp u sz.bytes)).place sz l (v.setWidth _))
    (stored := fun _ p => p.2.bytes)) ∧
  Leaves .popf (fun u => peek u.osz.bytes 0) always
    (fun u v =>
      let t := { withEsp u (espUp u u.osz.bytes) with eflags := flagsFrom u false v }
      if u.os32 then t.setFlag fRF false else t)
    (keepRf := true) ∧
  When .popa false (fun u => (List.range 8).mapM fun k => peek u.osz.bytes (u.osz.bytes * k)) always
    (fun u vals =>
      let put (u : State) (r : RegNum) (k : Nat) : State := u.writeReg u.osz r ((vals.getD k 0).setWidth _)
      put (put (put (put (put (put (put (withEsp u (espUp u (8 * u.osz.bytes))) rDI 0) rSI 1) rBP 2) rBX 4) rDX 5) rCX 6) rAX 7) ∧
  (∀ size level, When (.enter size level) false
    (fun u => do
      let n := u.osz.bytes
      let k := level.toNat % 32
      let (first, top) ← slotBelow n u.esp
      let (copies, below) ← enterSlots n top (u.reg32 rBP) (k - 1)
      return (first, copies, (← pushSlots n below (if k = 0 then 0 else 1)).1))
    always
    (fun u (first, copies, rest) =>
      let n := u.osz.bytes
      let frame := u.stackOff (espDown u n)
      let u1 := physWriteNat u (u.reg32 rBP).toNat first
      let u2 := copies.foldl (fun u p => physWriteNat u (BitVec.ofNat 32 (physReadNat u p.1)).toNat p.2) u1
      let u3 := rest.foldl (fun u slot => physWriteNat u frame.toNat slot) u2
      let u4 := withEsp u3 (espDown u3 (n * (1 + copies.length + rest.length) + size.toNat))
      if u.stack32 then u4.writeReg .d rBP frame else u4.writeReg .w rBP (frame.setWidth 16))
    (stored := fun _ (first, copies, rest) => first ++ (copies.map fun p => p.2).flatten ++ rest.flatten)) ∧
  (∀ n k esp bp s slots last t, enterSlots n esp bp k s = .ok (slots, last) t → slots.length = k) ∧
  When .leave false
    (fun u => do
      setEsp (if u.stack32 then u.reg32 rBP else u.esp.extractLsb' 16 16 ++ (u.reg32 rBP).setWidth 16)
      peek u.osz.bytes 0)
    always
    (fun u v =>
      let t := withEsp u (if u.stack32 then u.reg32 rBP else u.esp.extractLsb' 16 16 ++ (u.reg32 rBP).setWidth 16)
      (withEsp t (espUp t u.osz.bytes)).writeReg u.osz rBP (v.setWidth _))

/-- MOVS, CMPS, STOS, LODS and SCAS with and without a repeat prefix (41 R660 to R665, R680); that a repeated instruction
makes one iteration a step is 92 D18. The model's choices in it: log 5. -/
def Obligations.StringInstructions : Prop := ∀ w sz,
  let at_ (u : State) : Bool := u.wsz w == sz
  let n := sz.bytes
  Repeats (.movs w) false
    (fun u => do
      let v ← srcAt sz u
      return (v, ← dstAt sz u true))
    (fun u _ => at_ u) (fun u (v, as) => stepped (stepped (physWriteNat u v.toNat as) rSI n) rDI n) (stored := fun _ p => p.2) ∧
  Repeats (.cmps w) true
    (fun u => do
      let a ← srcAt sz u
      return (a, ← loadMem sz.bits .es (u.asReg rDI)))
    (fun u _ => at_ u) (fun u (a, b) => stepped (stepped (u.subFlags a b false) rSI n) rDI n) ∧
  Repeats (.stos w) false (fun u => dstAt sz u true) (fun u _ => at_ u)
    (fun u as => stepped (physWriteNat u (u.readReg sz rAX).toNat as) rDI n) (stored := fun _ as => as) ∧
  Repeats (.lods w) false (srcAt sz) (fun u _ => at_ u) (fun u v => stepped (u.writeReg sz rAX v) rSI n) ∧
  Repeats (.scas w) true (fun u => loadMem sz.bits .es (u.asReg rDI)) (fun u _ => at_ u)
    (fun u b => stepped (u.subFlags (u.readReg sz rAX) b false) rDI n)

/-- IN, OUT, INS and OUTS (41 R666, R667, R700 to R702): the permission bit map, the value read from a port (the open
function PLATFORM_IO of the port and the number of the read, its bytes least significant first, log 12), the value written
put on record, and #GP(0) where the bit map forbids the port. That INS and OUTS make one iteration a step and take F2 as REP
is the model's choice (log 5), as is what is remembered for SMM entry (log 8). The I/O permission bit map (41 R700): in
real-address mode, or at a privilege level IOPL covers, every port is allowed; else every bit of the ports must be 0 in the
map and the map must lie inside the TSS, or it is #GP(0). -/
def Obligations.PortInputOutput : Prop :=
  (let access (sz : Sz) (port : Word16) : M (BitVec sz.bits) := do
     checkPort port sz.bytes
     noteIo port sz.bytes
     return portIn sz port (← nextDraw)
   (∀ f sz, When (.inPort f) false (fun u => access sz (u.portOf f)) (fun u _ => u.wsz (portW f) == sz)
     fun u v => ioDone u (u.writeReg sz rAX v) (u.portOf f) (match f with | .imm _ _ => 9 | .dx _ => 1) sz.bytes 0 0) ∧
   (∀ f sz, When (.outPort f) false (fun u => do checkPort (u.portOf f) sz.bytes; noteIo (u.portOf f) sz.bytes)
     (fun u _ => u.wsz (portW f) == sz)
     fun u _ => ioDone u (portOut u (u.portOf f) sz (u.readReg sz rAX)) (u.portOf f)
       (match f with | .imm _ _ => 8 | .dx _ => 0) sz.bytes 0 0) ∧
   (∀ w sz, Repeats (.ins w) false
     (fun u => do
       checkPort u.dxPort sz.bytes
       let as ← dstAt sz u true
       noteIo u.dxPort sz.bytes
       return (as, portIn sz u.dxPort (← nextDraw)))
     (fun u _ => u.wsz w == sz)
     (fun u (as, v) =>
       let t := stepped u rDI sz.bytes
       ioDone u (stepped (physWriteNat u v.toNat as) rDI sz.bytes) u.dxPort (if u.cur.rep.isSome then 7 else 3) sz.bytes
         (u.es.base + u.asReg rDI) (u.es.base + t.asReg rDI))
     (stored := fun _ p => p.1)) ∧
   (∀ w sz, Repeats (.outs w) false
     (fun u => do
       checkPort u.dxPort sz.bytes
       let v ← srcAt sz u
       noteIo u.dxPort sz.bytes
       return v)
     (fun u _ => u.wsz w == sz)
     (fun u v =>
       let t := stepped u rSI sz.bytes
       let base := (u.seg (u.cur.seg.getD .ds)).base
       ioDone u (stepped (portOut u u.dxPort sz v) rSI sz.bytes) u.dxPort (if u.cur.rep.isSome then 6 else 2) sz.bytes
         (base + u.asReg rSI) (base + t.asReg rSI)))) ∧
  (∀ (port : Word16) (sz : Sz) (s : State),
   let n := sz.bytes
   let denied (t : State) : Prop := checkPort port n s = .error (.event { vector := 13, err := some 0 }) t
   (s.pe = false ∨ s.cpl ≤ s.iopl → checkPort port n s = .ok () s) ∧
   (∀ base t, s.pe = true → s.iopl < s.cpl → sysRead (s.tr.base + 0x66) 2 s = .ok base t →
     let low := port.toNat / 8
     let high := (port.toNat + n - 1) / 8
     (s.tr.limit.toNat < base + high → denied t) ∧
     (∀ bits u, base + high ≤ s.tr.limit.toNat →
       sysRead (s.tr.base + BitVec.ofNat 32 (base + low)) (high - low + 1) t = .ok bits u →
       ((∀ k, k < n → bits.testBit (port.toNat % 8 + k) = false) → checkPort port n s = .ok () u) ∧
       ((∃ k, k < n ∧ bits.testBit (port.toNat % 8 + k) = true) → denied u))))

/-! ## Control transfer (42) -/

/-- JMP near, Jcc, JCXZ, LOOP, LOOPE, LOOPNE (42 R720, R730 to R734). CALL and RET near (42 R740, R742): the return offset
pushed or popped, then the extra bytes released. -/
def Obligations.NearTransfers : Prop :=
  ((∀ d, Branches (.jmp (.rel d)) (fun _ => true) d) ∧
   (∀ x sz, Jumps (.jmp (.rm x)) (fun _ => readRm sz x) (fun u _ => u.osz == sz) (fun _ v => v.setWidth 32)) ∧
   (∀ cc d, Branches (.jcc cc d) (·.cond cc) d) ∧
   (∀ d, Branches (.jcxz d) (fun u => count u == 0) (.i8 d)) ∧
   (∀ d, Branches (.loop d) (fun u => count u != 1) (.i8 d) countDown) ∧
   (∀ d, Branches (.loope d) (fun u => count u != 1 && u.flag fZF) (.i8 d) countDown) ∧
   (∀ d, Branches (.loopne d) (fun u => count u != 1 && !u.flag fZF) (.i8 d) countDown)) ∧
  ((∀ d, Leaves (.call (.rel d)) (fun u => do return (← pushSlots u.osz.bytes u.esp 1).1.flatten)
     (fun u _ => u.inLimit u.cs (cutOs u (u.nextPc + BitVec.ofInt 32 (relVal d).toInt)) 1)
     (fun u as => branched (pushed u u.nextPc.toNat as) u.cs.base (cutOs u (u.nextPc + BitVec.ofInt 32 (relVal d).toInt)))
     (eip := fun u _ => cutOs u (u.nextPc + BitVec.ofInt 32 (relVal d).toInt)) (stored := fun _ as => as)) ∧
   (∀ d, Traps (.call (.rel d)) nothing
     (fun u _ => !u.inLimit u.cs (cutOs u (u.nextPc + BitVec.ofInt 32 (relVal d).toInt)) 1) { vector := 13, err := some 0 }) ∧
   (∀ x sz, Leaves (.call (.rm x))
     (fun u => do
       let v ← readRm sz x
       return (v.setWidth 32, (← pushSlots sz.bytes u.esp 1).1.flatten))
     (fun u p => u.osz == sz && u.inLimit u.cs p.1 1)
     (fun u p => branched (pushed u u.nextPc.toNat p.2) u.cs.base p.1) (eip := fun _ p => p.1) (stored := fun _ p => p.2)) ∧
   (∀ x sz, Traps (.call (.rm x)) (fun _ => readRm sz x) (fun u v => u.osz == sz && !u.inLimit u.cs (v.setWidth 32) 1)
     { vector := 13, err := some 0 }) ∧
   (∀ n, Jumps (.ret n) (fun u => peek u.osz.bytes 0) always (fun _ v => v)
     (fun u _ => withEsp u (espUp u (u.osz.bytes + (n.getD 0).toNat)))))

/-- JMP, CALL and RET far (42 R721, R731, R741, R743): in real-address mode the selector sixteenfold is the base; in
protected mode the checks of `farTarget` and `returnDesc` give the new CS, and a return to an outer level takes its stack
and drops the data segments it may not use; a return to an inner level is #GP. What those two answer for a descriptor, and
what they raise (R721, R743): gates and TSSs stop a JMP or CALL by name (92 D7). The frame of memory in protected mode is
stated with paging off. The model's choices in it: that CS keeps its hidden limit and rights in real-address mode (log 25),
#GP with the selector for a descriptor that R721 or R743 does not name and that the accessed bit of the code descriptor is
set, before the pushes (log 37), that a far pointer in memory is two accesses and the offset of its selector wraps at the
address size (log 47), and that a 16-bit stack pointer is zero-extended into ESP for an outer stack with B = 1 (log 38). -/
def Obligations.FarTransfers : Prop :=
  (∀ f, Leaves (.jmpFar f) (fun _ => farPointer f) (fun u _ => !u.pe)
    (fun u p => farEntered u (realSeg u.cs p.2) p.1) (eip := fun _ p => p.1)) ∧
  (∀ f, Leaves (.jmpFar f)
    (fun _ => do
      let p ← farPointer f
      return (p, ← farTarget p.2 p.1))
    (fun u _ => u.pe) (fun u (p, cs) => farEntered u cs p.1) (eip := fun _ p => p.1.1)
    (stored := fun u p => descByte u p.1.2) (whole := false)) ∧
  (∀ f, Leaves (.callFar f)
    (fun u => do
      let p ← farPointer f
      return (p, (← pushSlots u.osz.bytes u.esp 2).1))
    (fun u _ => !u.pe)
    (fun u (p, slots) => withEsp (farEntered (writeAll u [u.cs.sel.toNat, u.nextPc.toNat] slots) (realSeg u.cs p.2) p.1)
      (espDown u (2 * u.osz.bytes)))
    (eip := fun _ p => p.1.1) (stored := fun _ p => p.2.flatten)) ∧
  (∀ f, Leaves (.callFar f)
    (fun u => do
      let p ← farPointer f
      let cs ← farTarget p.2 p.1
      return (p, cs, (← pushSlots u.osz.bytes u.esp 2).1))
    (fun u _ => u.pe)
    (fun u (p, cs, slots) => withEsp (farEntered (writeAll u [u.cs.sel.toNat, u.nextPc.toNat] slots) cs p.1)
      (espDown u (2 * u.osz.bytes)))
    (eip := fun _ p => p.1.1) (stored := fun u (p, _, slots) => descByte u p.2 ++ slots.flatten) (whole := false)) ∧
  (∀ n, Leaves (.retf n) popFar (fun u _ => !u.pe)
    (fun u (off, sel) => withEsp (farEntered u (realSeg u.cs sel) off) (espUp u (2 * u.osz.bytes + (n.getD 0).toNat)))
    (eip := fun _ p => p.1)) ∧
  (∀ n, Leaves (.retf n) (fun u => do returnAccess (n.getD 0).toNat u (← popFar u))
    (fun u r => u.pe && u.cpl ≤ selRpl r.2.1.sel)
    (fun u (off, cs, stack) =>
      let k := (n.getD 0).toNat
      (returned u k k cs stack).recordBranch (u.cs.base + u.eip) (cs.base + off))
    (eip := fun _ r => r.1) (stored := returnBytes) (whole := false)) ∧
  (∀ n, TrapsBy (.retf n) popFar (fun u p => u.pe && selRpl p.2 < u.cpl)
    fun p => { vector := 13, err := some (selErr p.2) }) ∧
  ChecksCode farTarget
    (fun typ => if typ = 4 ∨ typ = 12 then some .callGate
      else if typ = 1 ∨ typ = 3 ∨ typ = 5 ∨ typ = 9 ∨ typ = 11 then some .taskSwitch else none)
    (fun s sel r => if r.conforming then r.dpl ≤ s.cpl else r.dpl == s.cpl && selRpl sel ≤ s.cpl)
    (fun sel a d t res =>
      (d.getLsbD 40 = true → res = .ok (segOfDesc (withRpl sel t.cpl) d) t) ∧
      (d.getLsbD 40 = false → t.paging = false →
        res = .ok { segOfDesc (withRpl sel t.cpl) d with typ := descType d ||| 1 }
          (physWrite8 t (a + 5).toNat (d.extractLsb' 40 8 ||| 1)))) ∧
  ChecksCode returnDesc (fun _ => none)
    (fun _ sel r => if r.conforming then r.dpl ≤ selRpl sel else r.dpl == selRpl sel)
    (fun _ a d t res => res = .ok (a, d) t)

/-- INT n, INT 3, INTO, BOUND, UD2 and the invalid opcodes 0F B9 and MOV to and from test registers (42 R750 to R754; 43
R812, R900; 30_encoding R334): they go to the handler of their exception, as its delivery leaves the machine; INTO with OF
clear and BOUND within bounds go on. The model's choices in it: that the second part of a two-part operand wraps at the
address size (log 47), and that a trap held in the shadow of MOV SS waits for the handler's first boundary (log 7). -/
def Obligations.SoftwareExceptions : Prop :=
  (∀ n, Enters (.int n) nothing always { vector := n, kind := .soft }) ∧
  Enters .int3 nothing always { vector := 3, kind := .soft } ∧
  Enters .into nothing (fun u _ => u.flag fOF) { vector := 4, kind := .soft } ∧
  When .into false nothing (fun u _ => !u.flag fOF) (fun u _ => u) ∧
  (∀ r m sz,
    let bounds : State → M (Int × Int) := fun _ => do
      let lo ← readMem sz.bits m
      let hi ← readMemPlus sz.bits m (BitVec.ofNat 32 sz.bytes)
      return (lo.toInt, hi.toInt)
    let inside (u : State) (b : Int × Int) : Bool := decide (b.1 ≤ (u.readReg sz r).toInt) && decide ((u.readReg sz r).toInt ≤ b.2)
    When (.bound r m) false bounds (fun u b => u.osz == sz && inside u b) (fun u _ => u) ∧
    Enters (.bound r m) bounds (fun u b => u.osz == sz && !inside u b) { vector := 5 }) ∧
  Enters .ud2 nothing always { vector := 6 } ∧ Enters .group10 nothing always { vector := 6 } ∧
  (∀ b n r, Enters (.movTest b n r) nothing always { vector := 6 })

/-- IRET (42 R753): in real-address mode and in protected mode it pops the instruction pointer, CS and the flags that
privilege allows (RF with them, 10_state R51), and in protected mode may switch to an outer level; NMIs are unblocked. A
return to an inner level is #GP with the selector. The frame of memory in protected mode is stated with paging off. The
model's choices in it: that CS keeps its hidden limit and rights in real-address mode (log 25), #GP with the selector for a
descriptor that R743 does not name and that the accessed bit of the code descriptor is set (log 37), that with a 16-bit
operand size VIF and VIP stay at privilege level 0 too (log 46), and that a 16-bit stack pointer is zero-extended into ESP
for an outer stack with B = 1 (log 38). -/
def Obligations.InterruptReturn : Prop :=
  let frame (u : State) : M ((Word32 × Word16) × Word32) := do
    let dest ← popFar u
    return (dest, ← peek u.osz.bytes (2 * u.osz.bytes))
  Leaves .iret frame
    (fun u _ => !u.pe)
    (fun u ((off, sel), image) =>
      { withEsp (farEntered u (realSeg u.cs sel) off) (espUp u (3 * u.osz.bytes)) with
        eflags := flagsFrom u true image, nmiBlocked := false })
    (eip := fun _ r => r.1.1) (keepRf := true) ∧
  TrapsBy .iret frame (fun u (dest, _) => u.pe && !u.flag fVM && !u.flag fNT && selRpl dest.2 < u.cpl)
    (fun (dest, _) => { vector := 13, err := some (selErr dest.2) }) ∧
  Leaves .iret
    (fun u => do
      let (dest, image) ← frame u
      return (image, ← returnAccess u.osz.bytes u dest))
    (fun u (image, r) => u.pe && !u.flag fVM && !u.flag fNT && !(u.os32 && image.getLsbD fVM && u.cpl == 0) &&
      u.cpl ≤ selRpl r.2.1.sel)
    (fun u (image, off, cs, stack) =>
      { (returned u u.osz.bytes 0 cs stack).recordBranch (u.cs.base + u.eip) (cs.base + off) with
        eflags := flagsFrom u true image, nmiBlocked := false })
    (eip := fun _ r => r.2.1) (stored := fun u r => returnBytes u r.2) (keepRf := true) (whole := false)

/-- SYSENTER and SYSEXIT (42 R770, R771): flat segments from IA32_SYSENTER_CS, and #GP(0) where it is null, in real-address
mode, and for SYSEXIT above privilege level 0. The model's choices in it: log 18. -/
def Obligations.FastSystemCalls : Prop :=
  let sel (u : State) : Word16 := u.msr.sysenterCs.setWidth 16
  let usable (u : State) : Bool := u.pe && !isNull (sel u)
  Leaves .sysenter nothing (fun u _ => usable u)
    (fun u _ =>
      let t := ((u.setFlag fVM false).setFlag fIF false).setFlag fRF false
      { withEsp (t.recordBranch (u.cs.base + u.eip) (u.msr.sysenterEip.setWidth 32)) (u.msr.sysenterEsp.setWidth 32) with
        cpl := 0, cs := flat4G (sel u &&& 0xFFFC) 11 0, ss := flat4G ((sel u &&& 0xFFFC) + 8) 3 0 })
    (eip := fun u _ => u.msr.sysenterEip.setWidth 32) ∧
  Traps .sysenter nothing (fun u _ => !usable u) { vector := 13, err := some 0 } ∧
  Leaves .sysexit nothing (fun u _ => usable u && u.cpl == 0)
    (fun u _ =>
      { withEsp (u.recordBranch (u.cs.base + u.eip) (u.reg32 rDX)) (u.reg32 rCX) with
        cpl := 3, cs := flat4G ((sel u + 16) ||| 3) 11 3, ss := flat4G ((sel u + 24) ||| 3) 3 3 })
    (eip := fun u _ => u.reg32 rDX) ∧
  Traps .sysexit nothing (fun u _ => !(usable u && u.cpl == 0)) { vector := 13, err := some 0 }

/-! ## System (43) -/

/-- MOV to and from control registers (43 R810): every flag undefined, the reserved numbers #UD, #GP(0) above privilege
level 0 and for the values `crWrite` refuses. MOV to and from debug registers (43 R811; 10_state R80 to R84): #UD for 4 and
5 with CR4.DE set, #GP(0) above privilege level 0, #DB with DR6.BD when DR7.GD is set; the fixed bits of DR6 and DR7 keep
their values. The model's choices in it: that bit 12 of DR6 reads 0 (log 31), the copies of the page-directory pointers,
#GP(0) for a reserved bit in one that MOV to CR3 loads, and what of the TLB a write drops (log 9), that the six status flags
are open (log 18), that NW without CD is #GP(0) (log 33), that #UD comes before the privilege check and general detect (log
42), that the bits of CR3 that its layout reserves read 0 (log 39), and that the next offset is cut by the mode before a
change of PE (log 48). -/
def Obligations.ControlAndDebugRegisters : Prop :=
  (∀ n r,
   Traps (.movFromCr n r) nothing (fun _ _ => !crKnown n) { vector := 6 } ∧
   Traps (.movToCr n r) nothing (fun _ _ => !crKnown n) { vector := 6 } ∧
   Traps (.movFromCr n r) nothing (fun u _ => crKnown n && !privOk u) { vector := 13, err := some 0 } ∧
   Traps (.movToCr n r) nothing (fun u _ => crKnown n && !privOk u) { vector := 13, err := some 0 } ∧
   When (.movFromCr n r) false nothing (fun u _ => crKnown n && privOk u) (fun u _ => u.writeReg .d r (crValue u n))
     (und := fun _ _ => statusFlags) ∧
   When (.movToCr n r) false nothing (fun u _ => crKnown n && privOk u && (crWrite u n (u.reg32 r)).isSome)
     (fun u _ => (crWrite u n (u.reg32 r)).getD u) (und := fun _ _ => statusFlags) ∧
   Traps (.movToCr n r) nothing (fun u _ => crKnown n && privOk u && (crWrite u n (u.reg32 r)).isNone)
     { vector := 13, err := some 0 }) ∧
  (∀ n r,
   let no (mk : RegNum → RegNum → Instr) : Prop :=
     Traps (mk n r) nothing (fun u _ => (drOf u n).isNone) { vector := 6 } ∧
     Traps (mk n r) nothing (fun u _ => (drOf u n).isSome && !privOk u) { vector := 13, err := some 0 } ∧
     Traps (mk n r) nothing (fun u _ => (drOf u n).isSome && privOk u && u.dr7.getLsbD 13) { vector := 1, dr6 := 0x2000 }
   let free_ (u : State) : Bool := (drOf u n).isSome && privOk u && !u.dr7.getLsbD 13
   no .movFromDr ∧ no .movToDr ∧
   When (.movFromDr n r) false nothing (fun u _ => free_ u) (fun u _ => u.writeReg .d r (drValue u ((drOf u n).getD 0)))
     (und := fun _ _ => statusFlags) ∧
   When (.movToDr n r) false nothing (fun u _ => free_ u) (fun u _ => drWrite u ((drOf u n).getD 0) (u.reg32 r))
     (und := fun _ _ => statusFlags))

/-- SGDT, SIDT, LGDT, LIDT, SLDT, STR, LLDT and LTR (43 R815 to R822): LLDT and LTR check the descriptor in the GDT, LTR
sets its busy bit, and a 16-bit TSS is refused (92 D7). That the last byte SGDT and SIDT store with a 16-bit operand size is
open is the model's choice (log 3): R817 stores base[31:24], and 93 U18 has proofs treat the byte as any value. So is that
the second part of a two-part operand wraps at the address size (log 47), and that a null selector becomes LDTR's visible
one (log 49). -/
def Obligations.DescriptorTables : Prop :=
  StoresTable .sgdt (·.gdtr) ∧ StoresTable .sidt (·.idtr) ∧
  LoadsTable .lgdt (fun u t => { u with gdtr := t }) ∧ LoadsTable .lidt (fun u t => { u with idtr := t }) ∧
  StoresSelector .sldt (·.ldtr.sel) ∧ StoresSelector .str (·.tr.sel) ∧
  (∀ x,
    let may (u : State) : Bool := u.pe && u.cpl == 0
    let ldt (d : Word64) : Bool := !descS d && descType d == 2
    let tss (d : Word64) : Bool := !descS d && descType d == 9
    let gp (sel : Word16) : Event := { vector := 13, err := some (selErr sel) }
    let np (sel : Word16) : Event := { vector := 11, err := some (selErr sel) }
    ProtectedOnly (.lldt x) ∧ ProtectedOnly (.ltr x) ∧ Privileged (.lldt x) ∧ Privileged (.ltr x) ∧
    When (.lldt x) false (fun _ => readRm .w x) (fun u (sel : Word16) => may u && isNull sel)
      (fun u sel => { u with ldtr := nullSeg sel }) ∧
    When (.lldt x) false (selDesc x) (fun u p => may u && !p.1.getLsbD 2 && p.2.any fun d => ldt d && descP d)
      (fun u p => { u with ldtr := segOfDesc p.1 (p.2.getD 0) }) ∧
    Traps (.ltr x) (fun _ => readRm .w x) (fun u (sel : Word16) => may u && isNull sel) { vector := 13, err := some 0 } ∧
    TrapsBy (.lldt x) (fun _ => readRm .w x) (fun u (sel : Word16) => may u && !isNull sel && sel.getLsbD 2) gp ∧
    TrapsBy (.ltr x) (fun _ => readRm .w x) (fun u (sel : Word16) => may u && !isNull sel && sel.getLsbD 2) gp ∧
    TrapsBy (.lldt x) (selDesc x) (fun u p => may u && !isNull p.1 && !p.1.getLsbD 2 && !p.2.any ldt) (fun p => gp p.1) ∧
    TrapsBy (.ltr x) (selDesc x)
      (fun u p => may u && !isNull p.1 && !p.1.getLsbD 2 && !p.2.any fun d => tss d || (!descS d && descType d == 1))
      (fun p => gp p.1) ∧
    TrapsBy (.lldt x) (selDesc x) (fun u p => may u && !p.1.getLsbD 2 && p.2.any fun d => ldt d && !descP d) (fun p => np p.1) ∧
    TrapsBy (.ltr x) (selDesc x) (fun u p => may u && !p.1.getLsbD 2 && p.2.any fun d => tss d && !descP d) (fun p => np p.1) ∧
    (∀ s p t, LockOk s false → selDesc x s.begin s.begin = .ok p t → may s = true → p.1.getLsbD 2 = false →
      p.2.any (fun d => !descS d && descType d == 1 && descP d) = true → exec (.ltr x) s = .refused .tss16) ∧
    Leaves (.ltr x)
      (fun u => do
        let p ← selDesc x u
        match u.descAddr p.1, p.2 with
        | some a, some d =>
          if tss d then sysWrite (a + 5) 1 ((d.extractLsb' 40 8).toNat + 2)
          return (p.1, d)
        | _, _ => return (p.1, 0))
      (fun u p => may u && !p.1.getLsbD 2 && tss p.2 && descP p.2)
      (fun u p => { u with tr := { segOfDesc p.1 p.2 with typ := 11 } })
      (stored := fun u p => descByte u p.1) (whole := false))

/-- LMSW, SMSW, CLTS, CLI, STI, HLT, WBINVD and INVLPG (43 R823 to R825, R850 to R852, R861, R862): LMSW can set PE but not
clear it, SMSW leaves the upper half of a 32-bit register open (log 3), STI with IF clear starts a shadow of one
instruction. The model's choices in it: that INVLPG drops every cached piece of the page and LMSW that sets PE drops the
cached translations (log 9), and that the offset after LMSW is cut by the mode before (log 48). -/
def Obligations.StatusWordAndInterruptFlag : Prop :=
  let iplOk (u : State) : Bool := !u.pe || u.cpl ≤ u.iopl
  (∀ x, Privileged (.lmsw x) ∧
    When (.lmsw x) false (fun _ => readRm .w x) (fun u _ => privOk u) fun u (v : Word16) =>
      let low := setBit (setBit u.cr0 0 (u.pe || v.getLsbD 0)) 1 (v.getLsbD 1)
      let t := { u with cr0 := setBit (setBit low 2 (v.getLsbD 2)) 3 (v.getLsbD 3) }
      if v.getLsbD 0 && !u.pe then { t with tlb := [] } else t) ∧
  (∀ r, WhenOpen (.smsw (.reg r)) nothing (fun u _ => u.os32)
    fun u _ (v : Word16) => u.writeReg .d r (v ++ u.cr0.setWidth 16)) ∧
  (∀ r, When (.smsw (.reg r)) false nothing (fun u _ => !u.os32) fun u _ => u.writeReg .w r (u.cr0.setWidth 16)) ∧
  (∀ m, When (.smsw (.mem m)) false (fun _ => memAddrs m 2 true) always (fun u as => physWriteNat u (u.cr0.toNat % 2 ^ 16) as)
    (stored := fun _ as => as)) ∧
  Privileged .clts ∧ When .clts false nothing (fun u _ => privOk u) (fun u _ => { u with cr0 := setBit u.cr0 3 false }) ∧
  When .cli false nothing (fun u _ => iplOk u) (fun u _ => u.setFlag fIF false) ∧
  When .sti false nothing (fun u _ => iplOk u) (fun u _ => { u.setFlag fIF true with stiShadow := !u.flag fIF }) ∧
  Traps .cli nothing (fun u _ => !iplOk u && !(u.cr4.getLsbD 1 && u.cpl == 3)) { vector := 13, err := some 0 } ∧
  Traps .sti nothing (fun u _ => !iplOk u && !(u.cr4.getLsbD 1 && u.cpl == 3)) { vector := 13, err := some 0 } ∧
  Privileged .hlt ∧ When .hlt false nothing (fun u _ => privOk u) (fun u _ => { u with activity := .halted }) ∧
  Privileged .wbinvd ∧ When .wbinvd false nothing (fun u _ => privOk u) (fun u _ => u) ∧
  (∀ m, Privileged (.invlpg m) ∧ When (.invlpg m) false nothing (fun u _ => privOk u) fun u _ =>
    let la := ((u.seg (u.memSeg m)).base + u.ea m).toNat
    let pieces (e : TlbEntry) : Nat := match e.size with | .k4 => 1 | .m2 => 512 | .m4 => 1024
    { u with tlb := u.tlb.filter fun e => e.page.toNat / pieces e != la / 4096 / pieces e })

/-- VERR, VERW, LAR, LSL and ARPL (43 R840 to R844); that ARPL's operand is checked as a write when it is not adjusted too
is the model's choice (log 10). -/
def Obligations.ProtectionChecks : Prop :=
  ChecksSelector .verr (fun g => g.s && (!g.typ.getLsbD 3 || g.typ.getLsbD 1)) (fun u _ => u) ∧
  ChecksSelector .verw (fun g => g.s && !g.typ.getLsbD 3 && g.typ.getLsbD 1) (fun u _ => u) ∧
  (∀ r, ChecksSelector (.lar r) (fun g => g.s || [1, 2, 3, 4, 5, 9, 11, 12].contains g.typ.toNat) fun u d =>
    if u.os32 then u.writeReg .d r ((d.extractLsb' 32 32) &&& 0x00F0FF00) else u.writeReg .w r ((d.extractLsb' 32 16) &&& 0xFF00)) ∧
  (∀ r, ChecksSelector (.lsl r) (fun g => g.s || [1, 2, 3, 9, 11].contains g.typ.toNat) fun u d =>
    u.writeReg u.osz r ((segOfDesc 0 d).limit.setWidth _)) ∧
  (∀ x r, ProtectedOnly (.arpl x r) ∧
    When (.arpl x r) false
      (fun _ => do
        probe (locate .w x true)
        readRm .w x)
      (fun u (v : Word16) => u.pe && !decide (v.toNat % 4 < (u.readReg .w r).toNat % 4)) (fun u _ => u.setFlag fZF false) ∧
    When (.arpl x r) false
      (fun _ => do
        probe (locate .w x true)
        let v : Word16 ← readRm .w x
        return (v, ← locate .w x true))
      (fun u p => u.pe && decide (p.1.toNat % 4 < (u.readReg .w r).toNat % 4))
      (fun u p => (u.setFlag fZF true).place .w p.2 (BitVec.ofNat 16 (p.1.toNat / 4 * 4 + (u.readReg .w r).toNat % 4)))
      (stored := fun _ p => p.2.bytes))

/-- CPUID, RDTSC and RDPMC (43 R830, R831, R834, R835): the vendor string, the signature, the feature bits of the parameters
(00_scope R9) and the size of the range MONITOR arms (10_state R176); a counter reads as any value not below the last;
#GP(0) where CR4 keeps the counters to privilege level 0. The model's choices in it: logs 11 and 20. -/
def Obligations.IdentificationAndCounters : Prop :=
  let put (u : State) (a b c d : Word32) : State :=
    let t := (((u.writeReg .d rAX a).writeReg .d rBX b).writeReg .d rCX c).writeReg .d rDX d
    if u.ucode.loaded then withMsr t fun r => { r with biosSignId := u.ucode.revision ++ r.biosSignId.setWidth 32 } else t
  When .cpuid false nothing (fun u _ => u.reg32 rAX == 0) (fun u _ => put u 5 0x756E6547 0x6C65746E 0x49656E69) ∧
  WhenOpen .cpuid nothing (fun u _ => u.reg32 rAX == 1)
    (fun u _ (v : Word32 × Word32 × Word32) =>
      let with_ (w : Word32) (bits : List (Nat × Bool)) : Word32 := bits.foldl (fun w p => setBit w p.1 p.2) w
      put u 0x00000F34 v.1 (with_ v.2.1 [(0, Config.hasSse3), (3, Config.hasSse3), (10, Config.hasCnxtId)])
        (with_ v.2.2 [(24, Config.hasFxsr), (25, Config.hasSse), (26, Config.hasSse2)])) ∧
  WhenOpen .cpuid nothing (fun u _ => u.reg32 rAX == 5)
    (fun u _ (v : Word16 × Word16 × Word32 × Word32) =>
      let size : Word16 := BitVec.ofNat 16 (2 ^ Config.monitorLineBits.toNat)
      put u (v.1 ++ size) (v.2.1 ++ size) v.2.2.1 v.2.2.2) ∧
  WhenOpen .cpuid nothing always (fun u _ (v : Word32 × Word32 × Word32 × Word32) => put u v.1 v.2.1 v.2.2.1 v.2.2.2) ∧
  When .rdtsc false (fun _ => free 64) (fun u _ => !u.cr4.getLsbD 2 || u.cpl == 0)
    (fun u v =>
      let new : Word64 := BitVec.ofNat 64 (min (u.msr.tsc.toNat + v.toNat) (2 ^ 64 - 1))
      withMsr ((u.writeReg .d rDX (new.extractLsb' 32 32)).writeReg .d rAX (new.setWidth 32)) fun r => { r with tsc := new }) ∧
  Traps .rdtsc nothing (fun u _ => u.cr4.getLsbD 2 && u.cpl != 0) { vector := 13, err := some 0 } ∧
  (∀ k, When .rdpmc false (fun _ => free 40)
    (fun u _ => k ≤ 5 && (u.cr4.getLsbD 8 || u.cpl == 0) && (u.reg32 rCX).toNat % 2 ^ 31 == 12 + k)
    (fun u v =>
      let new : BitVec 40 := BitVec.ofNat 40 (min ((u.msr.iqCounter.getD k 0).toNat + v.toNat) (2 ^ 40 - 1))
      let high := if 2 ^ 31 ≤ (u.reg32 rCX).toNat then 0#32 else BitVec.ofNat 32 (new.toNat / 2 ^ 32)
      withMsr ((u.writeReg .d rDX high).writeReg .d rAX (new.setWidth 32)) fun r => { r with iqCounter := r.iqCounter.set k new })) ∧
  Traps .rdpmc nothing
    (fun u _ => (!u.cr4.getLsbD 8 && u.cpl != 0) || decide ((u.reg32 rCX).toNat % 2 ^ 31 < 12)
      || decide (17 < (u.reg32 rCX).toNat % 2 ^ 31)) { vector := 13, err := some 0 }

/-- RDMSR and WRMSR (43 R832, R833; 10_state R110 to R139): registers that hold what was written, the read-only ones, the
write-to-clear bit of the thermal status, the reserved fields of the machine-check status by its error code (93 U39), the
counters, the platform identification, the microcode update that a write of 79H loads (70 R1712 to R1731, with paging off),
and #GP(0) for privilege, for absent registers and for reserved bits. The model's choices in it: logs 14 and 15; a counter
is any value not below the last (log 20). -/
def Obligations.ModelSpecificRegisters : Prop :=
  let here (u : State) (m : Nat) : Bool := privOk u && (u.reg32 rCX).toNat == m
  let absent (u : State) (has : Nat → Bool) : Bool := privOk u && !has (u.reg32 rCX).toNat && (u.reg32 rCX).toNat != 0xFE
  Privileged .rdmsr ∧ Privileged .wrmsr ∧
  PlainMsr 0x174 (·.msr.sysenterCs) (fun u v => withMsr u fun r => { r with sysenterCs := v }) ∧
  PlainMsr 0x175 (·.msr.sysenterEsp) (fun u v => withMsr u fun r => { r with sysenterEsp := v }) ∧
  PlainMsr 0x176 (·.msr.sysenterEip) (fun u v => withMsr u fun r => { r with sysenterEip := v }) ∧
  PlainMsr 0x8B (·.msr.biosSignId) (fun u v => withMsr u fun r => { r with biosSignId := v }) 0xFFFFFFFF ∧
  PlainMsr 0x19A (·.msr.clockModulation) (fun u v => withMsr u fun r => { r with clockModulation := v }) ∧
  PlainMsr 0x19C (·.msr.thermStatus)
    (fun u v => if v.getLsbD 1 then u else withMsr u fun r => { r with thermStatus := setBit r.thermStatus 1 false })
    0xFFFFFFFFFFFFFFFC ∧
  PlainMsr 0x1A0 (·.msr.miscEnable) (fun u v => withMsr u fun r => { r with miscEnable := v }) ∧
  PlainMsr 0x1D9 (·.msr.debugCtl) (fun u v => withMsr u fun r => { r with debugCtl := v }) ∧
  (∀ (k : Fin 6), PlainMsr (0x36C + k.val) (fun u => u.msr.iqCccr.getD k.val 0)
    (fun u v => withMsr u fun r => { r with iqCccr := r.iqCccr.set k.val v })) ∧
  (∀ (k : Fin 4),
    let here (u : State) : Bool := here u (0x401 + 4 * k.val)
    let v (u : State) : Word64 := u.reg32 rDX ++ u.reg32 rAX
    let clean (u : State) : Bool := (List.range 64).all fun i => mciOpen (v u) i || !(v u).getLsbD i
    When .rdmsr false nothing (fun u _ => here u) (fun u _ =>
      let old := u.msr.mciStatus.getD k.val 0
      msrRead u ((BitVec.ofBoolListLE ((List.range 64).map fun i => mciOpen old i && old.getLsbD i)).setWidth 64)) ∧
    When .wrmsr false nothing (fun u _ => here u && clean u)
      (fun u _ => withMsr u fun r => { r with mciStatus := r.mciStatus.set k.val (v u) }) ∧
    Traps .wrmsr nothing (fun u _ => here u && !clean u) { vector := 13, err := some 0 }) ∧
  (∀ (k : Fin 11),
    let m := [0x3B8, 0x3B9, 0x3BC, 0x3BD, 0x3BE, 0x3CA, 0x3CB, 0x3CC, 0x3CD, 0x3E0, 0x3E1].getD k.val 0
    PlainMsr m (fun u => u.msr.escr.getD k.val 0) (fun u v => withMsr u fun r => { r with escr := r.escr.set k.val v })) ∧
  When .rdmsr false (fun _ => free 64) (fun u _ => here u 0x10)
    (fun u v =>
      let new : Word64 := BitVec.ofNat 64 (min (u.msr.tsc.toNat + v.toNat) (2 ^ 64 - 1))
      withMsr (msrRead u new) fun r => { r with tsc := new }) ∧
  (∀ (k : Fin 6), When .rdmsr false (fun _ => free 40) (fun u _ => here u (0x30C + k.val))
    (fun u v =>
      let new : BitVec 40 := BitVec.ofNat 40 (min ((u.msr.iqCounter.getD k.val 0).toNat + v.toNat) (2 ^ 40 - 1))
      withMsr (msrRead u (new.setWidth 64)) fun r => { r with iqCounter := r.iqCounter.set k.val new })) ∧
  When .rdmsr false nothing (fun u _ => here u 0x17)
    (fun u _ => msrRead u (BitVec.ofNat 64 (Config.platformId.toNat * 2 ^ 50))) ∧
  When .wrmsr false nothing (fun u _ => here u 0x79 && u.reg32 rDX == 0 && (u.reg32 rAX).toNat % 16 == 0 && !u.paging)
    (fun u _ =>
      let base := u.reg32 rAX - 48
      if updateLoads u base then
        { u with ucode := { loaded := true, revision := BitVec.ofNat 32 (readLinear u (base + 4) 4) } }
      else u) ∧
  (∀ s : State, LockOk s false → here s 0x79 = true → s.reg32 rDX ≠ 0 ∨ (s.reg32 rAX).toNat % 16 ≠ 0 →
    exec .wrmsr s = .refused .ucodeTrigger) ∧
  (∀ s : State, LockOk s false → here s 0xFE = true → exec .rdmsr s = .refused .mtrrCap ∧ exec .wrmsr s = .refused .mtrrCap) ∧
  (∀ (k : Fin 16),
    let at_ (u : State) : BranchRecord := u.msr.lbr.getD k.val { source := 0, target := 0 }
    PlainMsr (0x680 + k.val) (fun u => (at_ u).source.setWidth 64)
      (fun u v => withMsr u fun r => { r with lbr := r.lbr.set k.val { at_ u with source := v.setWidth 32 } }) 0xFFFFFFFF00000000 ∧
    PlainMsr (0x6C0 + k.val) (fun u => (at_ u).target.setWidth 64)
      (fun u v => withMsr u fun r => { r with lbr := r.lbr.set k.val { at_ u with target := v.setWidth 32 } }) 0xFFFFFFFF00000000) ∧
  When .rdmsr false nothing (fun u _ => here u 0x1DA)
    (fun u _ => (u.writeReg .d rDX 0).writeReg .d rAX (u.msr.lbrTos.setWidth 32)) ∧
  When .wrmsr false nothing (fun u _ => here u 0x10) (fun u _ => withMsr u fun r => { r with tsc := u.reg32 rDX ++ u.reg32 rAX }) ∧
  (∀ (k : Fin 6), When .wrmsr false nothing (fun u _ => here u (0x30C + k.val)) (fun u _ =>
    withMsr u fun r => { r with iqCounter := r.iqCounter.set k.val ((u.reg32 rDX).setWidth 8 ++ u.reg32 rAX) })) ∧
  Traps .rdmsr nothing (fun u _ => absent u msrReads) { vector := 13, err := some 0 } ∧
  Traps .wrmsr nothing (fun u _ => absent u msrWrites) { vector := 13, err := some 0 }

/-- MONITOR, MWAIT and RSM (43 R870, R880, R881): MONITOR arms the block around its address, MWAIT waits only if it is
armed; RSM leaves SMM with the state that was saved and the SMBASE of the save map (60 R1607, R1608), and outside SMM is
#UD; the handler's choices, to leave HALT and to start an I/O instruction again, are open. INVD above privilege level 0 is
#GP(0); at privilege level 0 the machine stops, refused by name, since the modified data that INVD would discard has no
place in memory (43 R860; 92 D21). The model's choices in it: log 8, that MONITOR arms a block of an open power of two of
bytes (log 11), and that its one-byte check counts as a read for data breakpoints (log 10). -/
def Obligations.MonitorWaitResumeAndInvd : Prop :=
  (let may (u : State) : Bool := u.cpl == 0 && u.reg32 rCX == 0
   let off (u : State) : Word32 := u.maskAs (u.reg32 rAX)
   When .monitor false (fun u => dataAddrs (u.dataSeg .ds) (off u) 1 false) (fun u _ => may u)
     (fun u _ =>
       let la := ((u.seg (u.dataSeg .ds)).base + off u).toNat
       let size := 2 ^ Config.monitorLineBits.toNat
       let base : Word32 := BitVec.ofNat 32 (la / size * size)
       { u with monitor := { armed := true, base } }) ∧
   When .mwait false nothing (fun u _ => may u) (fun u _ => if u.monitor.armed then { u with activity := .mwait } else u) ∧
   Traps .monitor nothing (fun u _ => u.cpl != 0) { vector := 6 } ∧ Traps .mwait nothing (fun u _ => u.cpl != 0) { vector := 6 } ∧
   Traps .monitor nothing (fun u _ => u.cpl == 0 && u.reg32 rCX != 0) { vector := 13, err := some 0 } ∧
   Traps .mwait nothing (fun u _ => u.cpl == 0 && u.reg32 rCX != 0) { vector := 13, err := some 0 } ∧
   Traps .rsm nothing (fun u _ => !u.inSmm) { vector := 6 } ∧
   (∀ s c, LockOk s false → s.inSmm = true → s.smmDump = some c →
     let bad := decide (2 ^ 11 ≤ c.cr4.toNat) || (c.cr0.getLsbD 31 && !c.cr0.getLsbD 0) || (c.cr0.getLsbD 29 && !c.cr0.getLsbD 30)
     let slot := (List.range 4).map fun k => (s.smbase + BitVec.ofNat 32 (0xFEF8 + k)).toNat
     let t : State := { s with
       toCpu := c, inSmm := false, smmDump := none, smmRestart := none, tlb := [], cur := .none, repBusy := false, lastIo := none
       smbase := BitVec.ofNat 32 (physReadNat s slot) }
     let drawn : State := { t with draws := s.draws + 1 }
     (bad = true → exec .rsm s = .next s.enterShutdown) ∧
     (bad = false → s.smmRestart = none → c.activity ≠ .halted → exec .rsm s = .next t) ∧
     (bad = false → s.smmRestart = none → c.activity = .halted →
       exec .rsm s = .next drawn ∨ exec .rsm s = .next { drawn with activity := .running }) ∧
     (∀ io, bad = false → s.smmRestart = some io →
       exec .rsm s = .next drawn ∨
       exec .rsm s = .next { ((drawn.setReg32 rCX io.ecx).setReg32 rSI io.esi).setReg32 rDI io.edi with eip := io.eip }))) ∧
  (Privileged .invd ∧ ∀ s : State, LockOk s false → privOk s = true →
   exec .invd s = .refused .invd)

/-! ## x87 (44) -/

/-- CR0.EM or CR0.TS makes every x87 instruction #NM; an unmasked exception that waits makes the waiting ones #MF with
CR0.NE set, and without it the machine stops, since the spec does not model that signal (44 R920; 92 D25). FWAIT asks CR0.MP
and TS, FXSAVE and FXRSTOR are #UD for EM first (R1041 to R1043). When the vector instructions raise (10_state R101, R105;
45 R1062; 48 R1361, R1368): CR0.EM is #UD for both register files, CR4.OSFXSR clear is #UD for XMM registers; then CR0.TS is
#NM; then an x87 exception waiting is #MF for MMX registers. Every vector instruction is in `vUnit` with the registers it
works on, LFENCE and MFENCE too (DEDUCED, log 24); those on both register files raise as for XMM registers and then #MF. A
16-byte operand that is not aligned, `vWide`, is #GP(0) before the segment's own checks (20_memory R209; 48 R1361; for the
forms it does not list the model's choice, log 17). In real-address mode such an operand beyond FFFFH, and one of PADDB on
MMX registers, is #GP, through SS too (45 R1062, 46 R1141; against 20_memory R212, log 45). -/
def Obligations.UnitAvailability : Prop :=
  ((∀ i, xWaits i = true ∨ xNoWait i = true → Traps i nothing (fun u _ => !xPresent u) { vector := 7 }) ∧
   (∀ i, xWaits i = true → Traps i nothing (fun u _ => xPresent u && u.fpu.sw.getLsbD 7 && u.cr0.getLsbD 5) { vector := 16 }) ∧
   (∀ i s, xWaits i = true → LockOk s false → xPresent s = true → s.fpu.sw.getLsbD 7 = true → s.cr0.getLsbD 5 = false →
     exec i s = .refused .externalX87Error) ∧
   When .fwait false nothing (fun u _ => !(u.cr0.getLsbD 1 && u.cr0.getLsbD 3) && !u.fpu.sw.getLsbD 7) (fun u _ => u) ∧
   Traps .fwait nothing (fun u _ => u.cr0.getLsbD 1 && u.cr0.getLsbD 3) { vector := 7 } ∧
   Traps .fwait nothing (fun u _ => !(u.cr0.getLsbD 1 && u.cr0.getLsbD 3) && u.fpu.sw.getLsbD 7 && u.cr0.getLsbD 5)
     { vector := 16 } ∧
   (∀ m,
     Traps (.fxsave m) nothing (fun u _ => u.cr0.getLsbD 2) { vector := 6 } ∧
     Traps (.fxrstor m) nothing (fun u _ => u.cr0.getLsbD 2) { vector := 6 } ∧
     Traps (.fxsave m) nothing (fun u _ => !u.cr0.getLsbD 2 && u.cr0.getLsbD 3) { vector := 7 } ∧
     Traps (.fxrstor m) nothing (fun u _ => !u.cr0.getLsbD 2 && u.cr0.getLsbD 3) { vector := 7 })) ∧
  (let waiting (u : State) : Bool := u.fpu.sw.getLsbD 7
   let refused (i : Instr) (ready : State → Bool) : Prop := ∀ s, LockOk s false → ready s = true → waiting s = true →
     s.cr0.getLsbD 5 = false → exec i s = .refused .externalX87Error
   let free_ (i : Instr) (u : State) : Bool := vReady u && !(vUnit i == some .both && waiting u)
   (∀ i, vUnit i = some .mmx →
     Traps i nothing (fun u _ => u.cr0.getLsbD 2) { vector := 6 } ∧
     Traps i nothing (fun u _ => !u.cr0.getLsbD 2 && u.cr0.getLsbD 3) { vector := 7 } ∧
     Traps i nothing (fun u _ => xPresent u && waiting u && u.cr0.getLsbD 5) { vector := 16 } ∧ refused i xPresent) ∧
   (∀ i, vUnit i = some .xmm ∨ vUnit i = some .both →
     Traps i nothing (fun u _ => u.cr0.getLsbD 2 || !u.cr4.getLsbD 9) { vector := 6 } ∧
     Traps i nothing (fun u _ => !u.cr0.getLsbD 2 && u.cr4.getLsbD 9 && u.cr0.getLsbD 3) { vector := 7 }) ∧
   (∀ i, vUnit i = some .both →
     Traps i nothing (fun u _ => vReady u && waiting u && u.cr0.getLsbD 5) { vector := 16 } ∧ refused i vReady) ∧
   (∀ i m, vWide i = some (.mem m) →
     Traps i nothing (fun u _ => free_ i u && ((u.seg (u.memSeg m)).base + u.ea m).toNat % 16 != 0)
       { vector := 13, err := some 0 }) ∧
   (let beyond (u : State) (m : MemRef) (n : Nat) : Bool := !u.pe && !u.inSmm && decide (0x10000 < (u.ea m).toNat + n)
    (∀ i m, vWide i = some (.mem m) →
      Traps i nothing (fun u _ => free_ i u && beyond u m 16) { vector := 13, err := some 0 }) ∧
    ∀ d m, Traps (.paddb (.mm d (.mem m))) nothing (fun u _ => xReady u && beyond u m 8) { vector := 13, err := some 0 }))

/-- FLD, FILD, FBLD and the constants push (44 R930, R933, R937, R945 to R951); a constant is rounded as RC says; a packed
decimal is the number of its eighteen digits and its sign, and a digit above 9 gives an open value. What is pushed: of an
integer its value, of a single or double its value in the extended format, the bits of a NaN kept and a signaling one
quieted with an invalid operation, a denormal flagged (R921, R930). What a push does to the stack, and its overflow (R925).
That FLD ST(i) finds an empty source before a full stack, and that a rounded constant clears C1 and raises no precision
exception, are the model's choices (log 16). -/
def Obligations.X87Loads : Prop :=
  let const (i : Instr) (rm : Byte) (down near up : Word80) : Prop :=
    (∀ os32 as32, decode { os32, as32 } [0xD9, rm] = .ok i 2) ∧
    XReg i 0xD9 rm fun f => f.pushRes (xExact (if f.rc = 0 then near else if f.rc = 2 then up else down))
  let digit (v : Word80) (k : Nat) : Nat := v.toNat / 16 ^ k % 16
  let decimal (v : Word80) : Bool := (List.range 18).all fun k => decide (digit v k ≤ 9)
  (∀ m, XMem 32 (.fld (.m32 m)) 0xD9 0 m fun v f => f.pushRes (f.loaded (argFp .single v.toNat))) ∧
  (∀ m, XMem 64 (.fld (.m64 m)) 0xDD 0 m fun v f => f.pushRes (f.loaded (argFp .double v.toNat))) ∧
  (∀ m, XMem 80 (.fld (.m80 m)) 0xDB 5 m fun v f => f.pushRes (xExact v)) ∧
  (∀ r, XReg (.fld (.st r)) 0xD9 (modrm 3 0 r) fun f =>
    f.pushRes (if f.empty r then xInvalid f.masks xBadFlags extIndefinite else xExact (f.st r))) ∧
  (∀ m, XMem 16 (.fild (.m16 m)) 0xDF 0 m fun v f => f.pushRes (xExact (extOfInt v.toInt))) ∧
  (∀ m, XMem 32 (.fild (.m32 m)) 0xDB 0 m fun v f => f.pushRes (xExact (extOfInt v.toInt))) ∧
  (∀ m, XMem 64 (.fild (.m64 m)) 0xDF 5 m fun v f => f.pushRes (xExact (extOfInt v.toInt))) ∧
  (∀ m, When (.fbld m) false (fun _ => readMem 80 m) (fun u v => xReady u && decimal v)
    fun u v => withFpu u ((notedMem u 0xDF 4 m).pushRes
      (xExact (setBit (extOfInt ((List.range 18).map fun k => digit v k * 10 ^ k).sum) 79 (v.getLsbD 79))))) ∧
  (∀ m, WhenOpen (.fbld m) (fun _ => readMem 80 m) (fun u v => xReady u && !decimal v)
    fun u _ (x : Word80) => withFpu u ((notedMem u 0xDF 4 m).pushRes (xExact x))) ∧
  const .fld1 0xE8 0x3FFF8000000000000000 0x3FFF8000000000000000 0x3FFF8000000000000000 ∧
  const .fldl2t 0xE9 0x4000D49A784BCD1B8AFE 0x4000D49A784BCD1B8AFE 0x4000D49A784BCD1B8AFF ∧
  const .fldl2e 0xEA 0x3FFFB8AA3B295C17F0BB 0x3FFFB8AA3B295C17F0BC 0x3FFFB8AA3B295C17F0BC ∧
  const .fldpi 0xEB 0x4000C90FDAA22168C234 0x4000C90FDAA22168C235 0x4000C90FDAA22168C235 ∧
  const .fldlg2 0xEC 0x3FFD9A209A84FBCFF798 0x3FFD9A209A84FBCFF799 0x3FFD9A209A84FBCFF799 ∧
  const .fldln2 0xED 0x3FFEB17217F7D1CF79AB 0x3FFEB17217F7D1CF79AC 0x3FFEB17217F7D1CF79AC ∧
  const .fldz 0xEE 0 0 0 ∧
  (∀ (f : Fpu) (r : XRes Word80),
    (r.flags.getLsbD 6 = true ∨ f.empty 7 = true → f.pushRes r = f.settle r Fpu.push) ∧
    (r.flags.getLsbD 6 = false → f.empty 7 = false →
      f.pushRes r = flagged (if f.masks.getLsbD 0 then f.push extIndefinite else f) true 0x41)) ∧
  (∀ (f : Fpu) (v : Word80),
    let g := f.pushRes (xExact v)
    (f.empty 7 = true → g.top = f.top - 1 ∧ g.st 0 = v ∧ g.empty 0 = false ∧ g.sw.getLsbD 9 = false ∧
      (∀ r, r ≠ f.top - 1 → g.regs.get r = f.regs.get r ∧ g.tag r = f.tag r)) ∧
    (f.empty 7 = false → g.sw.getLsbD 0 = true ∧ g.sw.getLsbD 6 = true ∧ g.sw.getLsbD 9 = true ∧
      (f.masks.getLsbD 0 = true → g.top = f.top - 1 ∧ g.st 0 = extIndefinite) ∧
      (f.masks.getLsbD 0 = false → g.top = f.top ∧ g.regs = f.regs ∧ g.tw = f.tw))) ∧
  (∀ n : Int, n.natAbs < 2 ^ 64 →
    (∃ k, Encodes .extended k n.natAbs ∧ extOfInt n = extOf (decide (n < 0)) k) ∧
    argInt n = { v := extOfInt n, den := false, empty := false }) ∧
  (∀ (g : Fmt) (v : Nat), g = .single ∨ g = .double →
    let a := argFp g v
    let neg := fpNeg g v
    a.empty = false ∧ (a.den = true ↔ fpCls g v = .denormal) ∧
    (fpCls g v = .zero → a.v = extOf neg { exp := 0, sig := 0 }) ∧
    (fpCls g v = .inf → a.v = extOf neg { exp := 0x7FFF, sig := 2 ^ 63 }) ∧
    (fpCls g v = .snan ∨ fpCls g v = .qnan →
      a.v = extOf neg { exp := 0x7FFF, sig := 2 ^ 63 + v % 2 ^ (g.p - 1) * 2 ^ (64 - g.p) }) ∧
    (∀ x, fpCls g v = .normal ∨ fpCls g v = .denormal → fpVal g v = .fin x →
      ∃ k, Encodes .extended k (x.mant * (2 : ℝ) ^ x.exp) ∧ a.v = extOf x.neg k)) ∧
  (∀ (f : Fpu) (a : XArg), a.empty = false → extCls a.v ≠ .unsupported →
    (extCls a.v = .snan → f.loaded a = ifMasked f.masks 0 1 (nanOf a.v a.v)) ∧
    (extCls a.v = .qnan → f.loaded a = xExact a.v) ∧
    (extCls a.v ≠ .snan → extCls a.v ≠ .qnan → f.loaded a =
      if a.den then { flags := 2, up := false, val := if f.masks.getLsbD 1 then some a.v else none } else xExact a.v))

/-- FST, FSTP, FIST, FISTP, FISTTP and FBSTP (44 R931, R932, R934 to R936, R938): the bytes stored, and for the popping
forms the pop; FISTTP truncates and clears C1. What the three conversions give of ST(0), by its class: to single or double
the value rounded as `RoundingAndOrder` says, a NaN with the bits that fit, quieted; to an integer and to packed decimal the
value rounded as RC says, out of range, infinities and NaNs the indefinite with an invalid operation, an empty register that
and a stack fault. How a result is delivered: its flags join bits 6:0 of the status word, C1 says that it was rounded up, ES
and B that a flag is set unmasked (10_state R93; R923). The model's choices in it: log 16, and that a store that is
prevented is no write for data breakpoints (log 10). -/
def Obligations.X87Stores : Prop :=
  let trunc (w : Nat) (f : Fpu) : XRes Nat := { f.toInt 3 w with up := false }
  Delivers ∧
  (∀ m, XStore 4 (.fst (.m32 m)) 0xD9 2 m (·.toReal .single) false ∧ XStore 8 (.fst (.m64 m)) 0xDD 2 m (·.toReal .double) false ∧
    XStore 4 (.fstp (.m32 m)) 0xD9 3 m (·.toReal .single) true ∧ XStore 8 (.fstp (.m64 m)) 0xDD 3 m (·.toReal .double) true ∧
    XStore 10 (.fstp (.m80 m)) 0xDB 7 m
      (fun f => if f.empty 0 then xInvalid f.masks xBadFlags extIndefinite.toNat else xExact (f.st 0).toNat) true ∧
    XStore 2 (.fist (.m16 m)) 0xDF 2 m (fun f => f.toInt f.rc 16) false ∧
    XStore 4 (.fist (.m32 m)) 0xDB 2 m (fun f => f.toInt f.rc 32) false ∧
    XStore 2 (.fistp (.m16 m)) 0xDF 3 m (fun f => f.toInt f.rc 16) true ∧
    XStore 4 (.fistp (.m32 m)) 0xDB 3 m (fun f => f.toInt f.rc 32) true ∧
    XStore 8 (.fistp (.m64 m)) 0xDF 7 m (fun f => f.toInt f.rc 64) true ∧
    XStore 2 (.fisttp (.m16 m)) 0xDF 1 m (trunc 16) true ∧ XStore 4 (.fisttp (.m32 m)) 0xDB 1 m (trunc 32) true ∧
    XStore 8 (.fisttp (.m64 m)) 0xDD 1 m (trunc 64) true ∧
    XStore 10 (.fbstp m) 0xDF 6 m (·.toBcd) true) ∧
  (∀ r, XReg (.fst (.st r)) 0xDD (modrm 3 2 r) fun f =>
    if f.empty 0 then XMoves.underflow f fun f => f.setSt r extIndefinite
    else ((f.setSt r (f.st 0)).setTag (f.phys r) (f.tag f.top)).setC1 false) ∧
  (∀ r, XReg (.fstp (.st r)) 0xDD (modrm 3 3 r) fun f =>
    if f.empty 0 then XMoves.underflow f fun f => (f.setSt r extIndefinite).pop
    else (((f.setSt r (f.st 0)).setTag (f.phys r) (f.tag f.top)).pop).setC1 false) ∧
  (∀ f : Fpu,
    let v := f.st 0
    let neg := v.getLsbD 79
    let number (c : Cls) : Prop := c ≠ .unsupported ∧ c ≠ .snan ∧ c ≠ .qnan ∧ c ≠ .inf
    (∀ g : Fmt, g = .single ∨ g = .double →
      let special : Nat := (2 * g.emax + 1).toNat
      let bad (flags : Byte) : XRes Nat := ifMasked f.masks 0 flags (fpOf g true { exp := special, sig := 3 * 2 ^ (g.p - 2) })
      let nan : Nat := fpOf g neg { exp := special, sig := v.toNat % 2 ^ 64 / 2 ^ (64 - g.p) } ||| 2 ^ (g.p - 2)
      (f.empty 0 = true → f.toReal g = bad 0x41) ∧
      (f.empty 0 = false →
        (extCls v = .unsupported → f.toReal g = bad 1) ∧ (extCls v = .snan → f.toReal g = ifMasked f.masks 0 1 nan) ∧
        (extCls v = .qnan → f.toReal g = xExact nan) ∧
        (extCls v = .zero → f.toReal g = xExact (fpOf g neg { exp := 0, sig := 0 })) ∧
        (extCls v = .inf → f.toReal g = xExact (fpOf g neg { exp := special, sig := 2 ^ (g.p - 1) })) ∧
        (finite v →
          let o := g.round g.p f.rc f.masks 0 (extNumber v)
          let lost (i : Nat) : Bool := o.flags.getLsbD i && !f.masks.getLsbD i
          f.toReal g = if lost 3 || lost 4 then { flags := o.flags, up := false, val := none }
            else { flags := o.flags, up := o.up, val := some (fpOf g neg o.val) }))) ∧
    (∀ (rc : BitVec 2) (w : Nat), w = 16 ∨ w = 32 ∨ w = 64 →
      let bad (flags : Byte) : XRes Nat := ifMasked f.masks 0 flags (2 ^ (w - 1))
      let r := (extNumber v).roundAt rc 0
      let n : Int := (if neg then -1 else 1) * r.q
      (f.empty 0 = true → f.toInt rc w = bad 0x41) ∧
      (f.empty 0 = false →
        (¬number (extCls v) → f.toInt rc w = bad 1) ∧ (extCls v = .zero → f.toInt rc w = xExact 0) ∧
        (finite v → f.toInt rc w = if n < -2 ^ (w - 1) ∨ 2 ^ (w - 1) ≤ n then bad 1
          else { flags := peFlag r, up := r.up, val := some (n % 2 ^ w).toNat }))) ∧
    (let bad (flags : Byte) : XRes Nat := ifMasked f.masks 0 flags 0xFFFFC000000000000000
     let r := (extNumber v).roundAt f.rc 0
     (f.empty 0 = true → f.toBcd = bad 0x41) ∧
     (f.empty 0 = false →
       (¬number (extCls v) → f.toBcd = bad 1) ∧ (extCls v = .zero → f.toBcd = xExact (if neg then 2 ^ 79 else 0)) ∧
       (finite v → 10 ^ 18 ≤ r.q → f.toBcd = bad 1) ∧
       (finite v → r.q < 10 ^ 18 → ∃ b : Nat, f.toBcd = { flags := peFlag r, up := r.up, val := some b } ∧
         b / 2 ^ 72 = (if neg then 2 ^ 7 else 0) ∧ ∀ k, k < 18 → b / 16 ^ k % 16 = r.q / 10 ^ k % 10))))

/-- FXCH, FCMOVcc, FFREE, FINCSTP, FDECSTP, FNOP, FABS, FCHS (44 R939, R940, R975, R976, R1030 to R1040). The model's
choices in it: log 16. -/
def Obligations.X87StackInstructions : Prop :=
  (∀ r, XReg (.fxch r) 0xD9 (modrm 3 1 r) fun f =>
    let swap (f : Fpu) : Fpu :=
      let g := { f with regs := (f.regs.set (f.phys 0) (f.st r)).set (f.phys r) (f.st 0) }
      (g.setTag (f.phys 0) (f.tag (f.phys r))).setTag (f.phys r) (f.tag (f.phys 0))
    let fill (r : RegNum) (f : Fpu) : Fpu := if f.empty r then f.setSt r extIndefinite else f
    if f.empty 0 || f.empty r then XMoves.underflow f fun f => swap (fill r (fill 0 f)) else (swap f).setC1 false) ∧
  XMoves .fcmovb 0xDA 0 (·.flag fCF) ∧ XMoves .fcmove 0xDA 1 (·.flag fZF) ∧
  XMoves .fcmovbe 0xDA 2 (fun u => u.flag fCF || u.flag fZF) ∧ XMoves .fcmovu 0xDA 3 (·.flag fPF) ∧
  XMoves .fcmovnb 0xDB 0 (!·.flag fCF) ∧ XMoves .fcmovne 0xDB 1 (!·.flag fZF) ∧
  XMoves .fcmovnbe 0xDB 2 (fun u => !u.flag fCF && !u.flag fZF) ∧ XMoves .fcmovnu 0xDB 3 (!·.flag fPF) ∧
  (∀ r, XReg (.ffree r) 0xDD (modrm 3 0 r) fun f => f.setTag (f.phys r) 3) ∧
  XReg .fincstp 0xD9 0xF7 (fun f => (f.setTop (f.top + 1)).setC1 false) ∧
  XReg .fdecstp 0xD9 0xF6 (fun f => (f.setTop (f.top - 1)).setC1 false) ∧
  XReg .fnop 0xD9 0xD0 id ∧
  XCalc .fabs 0xD9 0xE1 (fun f =>
    if f.empty 0 then XMoves.underflow f (·.setSt 0 extIndefinite) else (f.setSt 0 (f.st 0 &&& 0x7FFFFFFFFFFFFFFFFFFF)).setC1 false) ∧
  XCalc .fchs 0xD9 0xE0 (fun f =>
    if f.empty 0 then XMoves.underflow f (·.setSt 0 extIndefinite) else (f.setSt 0 (f.st 0 ^^^ 0x80000000000000000000)).setC1 false)

/-- The basic operations in all their forms (44 R954 to R972), FSQRT, FRNDINT, FSCALE, FXTRACT, FPREM and FPREM1 (R973,
R974, R977 to R980): where the operands come from, where the result goes, C0, C2 and C3 open. The checks on the operands in
their order (R923, R924); what each operation gives on zeros, infinities and numbers, those by `ExactArithmetic`, rounded by
`RoundingAndOrder` to the precision PC says; what FRNDINT, FSCALE and FXTRACT give; and of FPREM and FPREM1 the remainder,
the bits of the quotient in C0, C3 and C1, the partial remainder with C2 set, and ST(0) kept under an infinite divisor. How
a result is delivered, as in `X87Stores`. The model's choices in it: log 16. -/
def Obligations.X87Arithmetic : Prop :=
  Delivers ∧
  XArith .fadd .faddp .fiadd 0 0 opAdd ∧ XArith .fmul .fmulp .fimul 1 1 (fun _ a b => opMul a b) ∧
  XArith .fsub .fsubp .fisub 4 5 opSub ∧ XArith .fsubr .fsubrp .fisubr 5 4 (fun rc a b => opSub rc b a) ∧
  XArith .fdiv .fdivp .fidiv 6 7 (fun _ a b => opDiv a b) ∧ XArith .fdivr .fdivrp .fidivr 7 6 (fun _ a b => opDiv b a) ∧
  XCalc .fsqrt 0xD9 0xFA (fun f => f.unary opSqrt (roundExt f.rc f.prec f.masks)) ∧
  XCalc .frndint 0xD9 0xFC (fun f => f.unary .val (xIntegral f.rc)) ∧
  XCalc .fxtract 0xD9 0xF4 (·.xtract) ∧
  When .fscale false (fun _ => do let w ← free 80; return (w, ← free 3))
    (fun u _ => xReady u && u.fpu.masks.getLsbD 3 && u.fpu.masks.getLsbD 4)
    (fun u p =>
      let f := openCodes (noted u 0xD9 0xFD) p.2
      withFpu u (f.settle (xRun f.masks [f.arg 0, f.arg 1] id extInf (opScale (extVal (f.st 0)) (extVal (f.st 1)))
        (roundExt f.rc 64 f.masks)) fun f v => f.setSt 0 v)) ∧
  When .fprem false (fun _ => do let c ← freeBit; return (c, ← free 3)) (fun u _ => xReady u)
    (fun u p => withFpu u ((openCodes (noted u 0xD9 0xF8) p.2).prem false p.1)) ∧
  When .fprem1 false (fun _ => do let c ← freeBit; return (c, ← free 3)) (fun u _ => xReady u)
    (fun u p => withFpu u ((openCodes (noted u 0xD9 0xF5) p.2).prem true p.1)) ∧
  ValueOperations ∧ ChecksOperands ∧
  (∀ (f : Fpu) (op : XOp) (a : XArg) (r : RegNum) (pops : Bool) (one : Val → Op) (finish : Val → XRes Word80),
    let run (x y : XArg) : XRes Word80 :=
      xRun f.masks [x, y] id extInf (op f.rc (extVal x.v) (extVal y.v)) (roundExt f.rc f.prec f.masks)
    f.arithTop op a = f.settle (run (f.arg 0) a) (fun g v => g.setSt 0 v) ∧
    f.arithTo op r pops = f.settle (run (f.arg r) (f.arg 0)) (fun g v => if pops then (g.setSt r v).pop else g.setSt r v) ∧
    f.unary one finish = f.settle (xRun f.masks [f.arg 0] id extInf (one (extVal (f.st 0))) finish) (fun g v => g.setSt 0 v) ∧
    f.prec = (if f.cw.toNat / 2 ^ 8 % 4 = 0 then 24 else if f.cw.toNat / 2 ^ 8 % 4 = 2 then 53
      else if f.cw.toNat / 2 ^ 8 % 4 = 3 then 64 else [24, 53, 64].getD Config.x87ReservedPrecision.val 0)) ∧
  (∀ (rc : BitVec 2),
    (∀ n, xIntegral rc (.zero n) = xExact (extOf n { exp := 0, sig := 0 }) ∧
      xIntegral rc (.inf n) = xExact (extOf n { exp := 0x7FFF, sig := 2 ^ 63 })) ∧
    (∀ (x : Exact) (m : ℝ) (r : Rounded), StandsFor x m → x.sticky = false → 0 < x.mant → x.mant < 2 ^ 64 →
      m < (2 : ℝ) ^ (16384 : Int) → RoundsTo rc x.neg 0 m r →
      ∃ k, Encodes .extended k r.q ∧ xIntegral rc (.fin x) = { flags := peFlag r, up := r.up, val := some (extOf x.neg k) })) ∧
  (∀ (x y : Exact) (m n : Bool), x.sticky = false → y.sticky = false → y.mant ≠ 0 →
    let steps := (y.roundAt 3 0).q
    let by_ : Int := if steps < 2 ^ 17 then steps else 2 ^ 17
    opScale (.fin x) (.fin y) = .val (.fin { x with exp := if y.neg then x.exp - by_ else x.exp + by_ }) ∧
    opScale (.fin x) (.zero n) = .val (.fin x) ∧ opScale (.zero m) (.fin y) = .val (.zero m) ∧
    opScale (.zero m) (.zero n) = .val (.zero m) ∧ opScale (.inf m) (.fin y) = .val (.inf m) ∧
    opScale (.inf m) (.zero n) = .val (.inf m) ∧
    opScale (.zero m) (.inf false) = .invalid ∧ opScale (.zero m) (.inf true) = .val (.zero m) ∧
    opScale (.inf m) (.inf true) = .invalid ∧ opScale (.inf m) (.inf false) = .val (.inf m) ∧
    opScale (.fin x) (.inf true) = .val (.zero x.neg) ∧ opScale (.fin x) (.inf false) = .val (.inf x.neg)) ∧
  Extracts ∧ ∀ nearest, Remainders nearest

/-- The comparisons and FXAM (44 R985 to R998): the operands are found by TOP and the tags; C3, C2 and C0 in bits 14, 10 and
8 of the status word, or ZF, PF and CF with OF, SF and AF cleared, get what `comparison` finds of the values, unordered on
NaNs and empty registers (R926); C1 is cleared, the flags are raised, and the register stack is popped only when the
comparison is done. FXAM gives the class of ST(0) and its sign. The model's choices in it: the codes after an unmasked
exception, and those of FXAM for a pseudo-denormal (log 16). -/
def Obligations.X87Comparisons : Prop :=
  (∀ m,
    XMem 32 (.fcom (.m32 m)) 0xD8 2 m (fun v => XCompare true 0 fun _ => argFp .single v.toNat) ∧
    XMem 64 (.fcom (.m64 m)) 0xDC 2 m (fun v => XCompare true 0 fun _ => argFp .double v.toNat) ∧
    XMem 32 (.fcomp (.m32 m)) 0xD8 3 m (fun v => XCompare true 1 fun _ => argFp .single v.toNat) ∧
    XMem 64 (.fcomp (.m64 m)) 0xDC 3 m (fun v => XCompare true 1 fun _ => argFp .double v.toNat) ∧
    XMem 16 (.ficom (.m16 m)) 0xDE 2 m (fun v => XCompare true 0 fun _ => argInt v.toInt) ∧
    XMem 32 (.ficom (.m32 m)) 0xDA 2 m (fun v => XCompare true 0 fun _ => argInt v.toInt) ∧
    XMem 16 (.ficomp (.m16 m)) 0xDE 3 m (fun v => XCompare true 1 fun _ => argInt v.toInt) ∧
    XMem 32 (.ficomp (.m32 m)) 0xDA 3 m (fun v => XCompare true 1 fun _ => argInt v.toInt)) ∧
  (∀ r,
    XReg (.fcom (.st r)) 0xD8 (modrm 3 2 r) (XCompare true 0 (stArg · r)) ∧
    XReg (.fcomp (.st r)) 0xD8 (modrm 3 3 r) (XCompare true 1 (stArg · r)) ∧
    XReg (.fucom r) 0xDD (modrm 3 4 r) (XCompare false 0 (stArg · r)) ∧
    XReg (.fucomp r) 0xDD (modrm 3 5 r) (XCompare false 1 (stArg · r))) ∧
  XReg .fcompp 0xDE 0xD9 (XCompare true 2 (stArg · 1)) ∧ XReg .fucompp 0xDA 0xE9 (XCompare false 2 (stArg · 1)) ∧
  XReg .ftst 0xD9 0xE4 (XCompare true 0 fun _ => argInt 0) ∧
  XCompareFlags .fcomi 0xDB 6 true 0 ∧ XCompareFlags .fcomip 0xDF 6 true 1 ∧
  XCompareFlags .fucomi 0xDB 5 false 0 ∧ XCompareFlags .fucomip 0xDF 5 false 1 ∧
  XReg .fxam 0xD9 0xE5 (fun f =>
    let c : BitVec 3 := if f.empty 0 then 5 else match extCls (f.st 0) with
      | .unsupported => 0 | .snan => 1 | .qnan => 1 | .normal => 2 | .inf => 3 | .zero => 4 | .denormal => 6
    { f with sw := setBit (setBit (setBit (setBit f.sw 8 (c.getLsbD 0)) 10 (c.getLsbD 1)) 14 (c.getLsbD 2)) 9 (extNeg (f.st 0)) })

/-- FSIN, FCOS, FSINCOS and FPTAN within range and out of it, FPATAN, F2XM1, FYL2X and FYL2XP1 (44 R1005 to R1012), on
normal numbers with all exceptions masked: where the approximation goes; what it raises besides is open (92 D12). The
model's choices in it: log 16. -/
def Obligations.X87Transcendentals : Prop :=
  let out (i : Instr) (rm : Byte) : Prop :=
    XApprox i rm (fun f => extCls (f.st 0) == .normal && !trigArg f) fun f => f.setC2 true
  XApprox .fsin 0xFE trigArg (fun f => (f.setSt 0 (Config.x87Fsin (f.st 0))).setC2 false) ∧ out .fsin 0xFE ∧
  XApprox .fcos 0xFF trigArg (fun f => (f.setSt 0 (Config.x87Fcos (f.st 0))).setC2 false) ∧ out .fcos 0xFF ∧
  XApprox .fsincos 0xFB (fun f => trigArg f && f.empty 7)
    (fun f => ((f.setSt 0 (Config.x87Fsin (f.st 0))).push (Config.x87Fcos (f.st 0))).setC2 false) ∧ out .fsincos 0xFB ∧
  XApprox .fptan 0xF2 (fun f => trigArg f && f.empty 7)
    (fun f => ((f.setSt 0 (Config.x87Ftan (f.st 0))).push 0x3FFF8000000000000000).setC2 false) ∧ out .fptan 0xF2 ∧
  WhenOpen .fpatan nothing (fun u _ => xReady u && u.fpu.masks == 0x3F && !u.fpu.empty 0 && !u.fpu.empty 1 &&
      extCls (u.fpu.st 0) == .normal && extCls (u.fpu.st 1) == .normal)
    (fun u _ (v : Word16 × Bool) =>
      let f := noted u 0xD9 0xF3
      let g := (f.setSt 1 (Config.x87Fpatan (f.st 1) (f.st 0))).pop
      withFpu u (openStatus (g.setC2 v.2) v.1)) ∧
  WhenOpen .f2xm1 nothing (fun u _ => xReady u && u.fpu.masks == 0x3F && !u.fpu.empty 0 && extCls (u.fpu.st 0) == .normal &&
      decide (extExp (u.fpu.st 0) < 16383))
    (fun u _ (v : Word16 × Bool) =>
      let f := noted u 0xD9 0xF0
      withFpu u (openStatus ((f.setSt 0 (Config.x87F2xm1 (f.st 0))).setC2 v.2) v.1)) ∧
  WhenOpen .fyl2x nothing (fun u _ => xReady u && u.fpu.masks == 0x3F && !u.fpu.empty 0 && !u.fpu.empty 1 &&
      extCls (u.fpu.st 0) == .normal && extCls (u.fpu.st 1) == .normal && !extNeg (u.fpu.st 0))
    (fun u _ (v : Word16 × Bool) =>
      let f := noted u 0xD9 0xF1
      withFpu u (openStatus ((f.setSt 1 (Config.x87Fyl2x (f.st 1) (f.st 0))).pop.setC2 v.2) v.1)) ∧
  WhenOpen .fyl2xp1 nothing (fun u _ => xReady u && u.fpu.masks == 0x3F && !u.fpu.empty 0 && !u.fpu.empty 1 &&
      extCls (u.fpu.st 0) == .normal && extCls (u.fpu.st 1) == .normal && decide (extExp (u.fpu.st 0) < 16383 - 2))
    (fun u _ (v : Word16 × Bool) =>
      let f := noted u 0xD9 0xF9
      withFpu u (openStatus ((f.setSt 1 (Config.x87Fyl2xp1 (f.st 1) (f.st 0))).pop.setC2 v.2) v.1))

/-- FNINIT, FNCLEX, FLDCW, FNSTCW, FNSTSW, FLDENV, FNSTENV, FRSTOR and FNSAVE (44 R1020 to R1029): the four formats of the
environment are stated field by field, stored and loaded; FNSAVE initializes, FNSTENV masks all exceptions. FXSAVE and
FXRSTOR (44 R1042, R1043): the 512 bytes, aligned to 16, and the round trip through them, the tags rebuilt from the values;
FXRSTOR with an MXCSR bit set that MXCSR_MASK does not allow is #GP(0). The model's choices in it: logs 16 and 23, and the
two values that MXCSR_MASK may have (log 27). -/
def Obligations.X87StateImages : Prop :=
  (let start (f : Fpu) : Fpu :=
     { f with cw := 0x037F, sw := 0, tw := 0xFFFF, fipSel := 0, fip := 0, fdpSel := 0, fdp := 0, fop := 0 }
   let envBytes (u : State) : Nat := if u.os32 then 28 else 14
   When .fninit false nothing (fun u _ => xPresent u) (fun u _ => withFpu u (start u.fpu)) ∧
   When .fnclex false (fun _ => do let c ← free 3; return (c, ← freeBit)) (fun u _ => xPresent u)
     (fun u p =>
       let f := openCodes { u.fpu with sw := u.fpu.sw &&& 0x7F00 } p.1
       withFpu u { f with sw := setBit f.sw 9 p.2 }) ∧
   (∀ m, When (.fldcw m) false (fun _ => readMem 16 m) (fun u _ => xReady u) fun u v => withFpu u (summed { u.fpu with cw := v })) ∧
   (∀ m, When (.fnstcw m) false (fun _ => memAddrs m 2 true) (fun u _ => xPresent u) (fun u as => physWriteNat u u.fpu.cw.toNat as)
     (stored := fun _ as => as)) ∧
   (∀ m, When (.fnstsw (.mem m)) false (fun _ => memAddrs m 2 true) (fun u _ => xPresent u)
     (fun u as => physWriteNat u u.fpu.sw.toNat as) (stored := fun _ as => as)) ∧
   When (.fnstsw .ax) false nothing (fun u _ => xPresent u) (fun u _ => u.writeReg .w rAX u.fpu.sw) ∧
   (∀ m, When (.fnstenv m) false (fun u => do let as ← memAddrs m (envBytes u) true; return (as, ← free 224))
     (fun u _ => xPresent u)
     (fun u p => withFpu (physWriteNat u (u.fpu.env u.os32 u.pe p.2.toNat) p.1) (summed { u.fpu with cw := u.fpu.cw ||| 0x3F }))
     (stored := fun _ p => p.1)) ∧
   (∀ m, When (.fldenv m) false (fun u => do return (← readMem (8 * envBytes u) m).toNat) (fun u _ => xReady u)
     fun u v => withFpu u (u.fpu.loadEnv u.os32 u.pe v)) ∧
   (∀ m, When (.fnsave m) false (fun u => do let as ← memAddrs m (envBytes u + 80) true; return (as, ← free 224))
     (fun u _ => xPresent u)
     (fun u p =>
       let regs := (List.range 8).foldr (fun k n => (u.fpu.st (BitVec.ofNat 3 k)).toNat + 2 ^ 80 * n) 0
       let env := u.fpu.env u.os32 u.pe p.2.toNat % 2 ^ (8 * envBytes u)
       withFpu (physWriteNat u (env + 2 ^ (8 * envBytes u) * regs) p.1) (start u.fpu))
     (stored := fun _ p => p.1)) ∧
   (∀ m, When (.frstor m) false (fun u => do return (← readMem (8 * (envBytes u + 80)) m).toNat) (fun u _ => xReady u)
     fun u v =>
       let f := u.fpu.loadEnv u.os32 u.pe v
       withFpu u { f with regs := (List.range 8).foldl (fun r k =>
         r.set (f.phys (BitVec.ofNat 3 k)) (BitVec.ofNat 80 (v / 2 ^ (8 * envBytes u + 80 * k)))) f.regs }) ∧
   EnvFormats) ∧
  (let usable (u : State) : Bool := xPresent u && u.cr4.getLsbD 9
   let image (u : State) (r : Nat) : Nat := fxImage u.fpu r (sseImage u)
   let aligned (u : State) (m : MemRef) : Bool := ((u.seg (u.memSeg m)).base + u.ea m).toNat % 16 == 0
   let mxcsrOk (v : Nat) : Bool := BitVec.ofNat 32 (v / 2 ^ 192) &&& ~~~Config.mxcsrMask == 0
   let read (m : MemRef) (u : State) : M Nat := do
     if !aligned u m then raiseGP 0
     return (← readMem 4096 m).toNat
   (∀ m, Traps (.fxsave m) nothing (fun u _ => usable u && !aligned u m) { vector := 13, err := some 0 }) ∧
   (∀ m, Traps (.fxrstor m) (read m) (fun u v => usable u && !mxcsrOk v) { vector := 13, err := some 0 }) ∧
   (∀ m, When (.fxsave m) false (fun u => do
       if !aligned u m then raiseGP 0
       let as ← memAddrs m 512 true
       return (as, ← free 4096)) (fun u _ => usable u)
     (fun u p => physWriteNat u (image u p.2.toNat) p.1) (stored := fun _ p => p.1)) ∧
   (∀ m, When (.fxrstor m) false (read m) (fun u v => usable u && mxcsrOk v)
     (fun u v =>
       let b (w off : Nat) : BitVec w := BitVec.ofNat w (v / 2 ^ (8 * off))
       let f : Fpu := { u.fpu with cw := b 16 0, sw := b 16 2, fop := b 11 6, fip := b 32 8, fipSel := b 16 12, fdp := b 32 16, fdpSel := b 16 20 }
       let f := { f with regs := (List.range 8).foldl (fun r k => r.set (f.phys (BitVec.ofNat 3 k)) (b 80 (32 + 16 * k))) f.regs }
       let f := (List.range 8).foldl (fun (f : Fpu) k =>
         f.setTag (BitVec.ofNat 3 k) (if (b 8 4).getLsbD k then tagOf (f.regs.get (BitVec.ofNat 3 k)) else 3)) f
       { withFpu u (summed f) with
         mxcsr := b 32 24, xmm := ⟨b 128 160, b 128 176, b 128 192, b 128 208, b 128 224, b 128 240, b 128 256, b 128 272⟩ })) ∧
   (∀ (u : State) (r : Nat),
     let v := image u r
     v % 2 ^ 16 = u.fpu.cw.toNat ∧ v / 2 ^ 16 % 2 ^ 16 = u.fpu.sw.toNat ∧ v / 2 ^ 48 % 2 ^ 16 = u.fpu.fop.toNat ∧
     v / 2 ^ 64 % 2 ^ 32 = u.fpu.fip.toNat ∧ v / 2 ^ 96 % 2 ^ 16 = u.fpu.fipSel.toNat ∧
     v / 2 ^ 128 % 2 ^ 32 = u.fpu.fdp.toNat ∧ v / 2 ^ 160 % 2 ^ 16 = u.fpu.fdpSel.toNat ∧
     v / 2 ^ 192 % 2 ^ 32 = u.mxcsr.toNat ∧ v / 2 ^ 224 % 2 ^ 32 = Config.mxcsrMask.toNat ∧
     (∀ k, k < 8 → (v / 2 ^ (32 + k)) % 2 = (if u.fpu.tag (BitVec.ofNat 3 k) = 3 then 0 else 1)) ∧
     (∀ k, k < 8 → v / 2 ^ (256 + 128 * k) % 2 ^ 80 = (u.fpu.st (BitVec.ofNat 3 k)).toNat) ∧
     (∀ k, k < 8 → v / 2 ^ (1280 + 128 * k) % 2 ^ 128 = (u.xmmReg (BitVec.ofNat 3 k)).toNat)))

/-- Operations are computed exactly, then rounded (44 R922). Sum and product keep the exact value. The quotient of numbers
and the square root stand for the exact one: the number kept is it, or with a sticky rest it lies strictly between that
number and the next, and of operands below 2^64 at least 67 bits are kept. What the bits of a single, a double and an
extended value stand for: class, sign and number (R921; 46 R1144), and, under DAZ, a denormal read as zero. -/
def Obligations.ExactArithmetic : Prop :=
  let value (x : Exact) : ℝ := (if x.neg then -1 else 1) * x.mant * (2 : ℝ) ^ x.exp
  (∀ x y : Exact, x.sticky = false → y.sticky = false →
    (∀ z, Exact.add x y = some z → value z = value x + value y ∧ z.mant ≠ 0 ∧ z.sticky = false) ∧
    (Exact.add x y = none → value x + value y = 0) ∧
    value (x.mul y) = value x * value y ∧ (x.mul y).sticky = false ∧
    (y.mant ≠ 0 →
      let z := x.div y
      z.neg = (x.neg != y.neg) ∧ StandsFor z |value x / value y| ∧ (x.mant ≠ 0 → y.mant < 2 ^ 64 → 2 ^ 66 ≤ z.mant)) ∧
    (x.neg = false → x.mant < 2 ^ 64 →
      let z := x.sqrt
      z.neg = false ∧ StandsFor z (Real.sqrt (value x)) ∧ (x.mant ≠ 0 → 2 ^ 66 ≤ z.mant))) ∧
  (∀ (f : Fmt) (w v : Nat) (mx : Word32), (f = .single ∧ w = 8) ∨ (f = .double ∧ w = 11) →
    let field := v / 2 ^ (f.p - 1) % 2 ^ w
    let frac := v % 2 ^ (f.p - 1)
    let neg := v.testBit (f.p - 1 + w)
    let cls : Cls :=
      if field = 0 then (if frac = 0 then .zero else .denormal)
      else if field < 2 ^ w - 1 then .normal
      else if frac = 0 then .inf else if frac.testBit (f.p - 2) then .qnan else .snan
    fpCls f v = cls ∧ (fpNeg f v = neg) ∧ sNan f v = (cls == .snan || cls == .qnan) ∧
    (cls = .zero → fpVal f v = .zero neg) ∧ (cls = .inf → fpVal f v = .inf neg) ∧
    (cls = .normal ∨ cls = .denormal → fpVal f v = .fin {
      neg, mant := if field = 0 then frac else 2 ^ (f.p - 1) + frac
      exp := (max field 1 : Nat) - f.emax - ((f.p : Int) - 1) }) ∧
    (let zero : Bool := cls == .denormal && mx.getLsbD 6
     sDen mx f v = (cls == .denormal && !mx.getLsbD 6) ∧ sRead mx f v = (if zero then fpOf f neg { exp := 0, sig := 0 } else v) ∧
     sVal mx f v = if zero then .zero neg else fpVal f v)) ∧
  (∀ v : Word80,
    let field := v.toNat / 2 ^ 64 % 2 ^ 15
    let sig := v.toNat % 2 ^ 64
    extCls v = (if field = 0 then (if sig = 0 then .zero else .denormal)
      else if sig < 2 ^ 63 then .unsupported
      else if field < 0x7FFF then .normal
      else if sig = 2 ^ 63 then .inf else if sig / 2 ^ 62 % 2 = 1 then .qnan else .snan) ∧
    (extCls v = .zero → extVal v = .zero (v.getLsbD 79)) ∧ (extCls v = .inf → extVal v = .inf (v.getLsbD 79)) ∧
    (finite v → extVal v = .fin (extNumber v))) ∧
  (∀ (neg : Bool) (k : Packed),
    (k.exp < 2 ^ 15 → k.sig < 2 ^ 64 → (extOf neg k).toNat = (if neg then 2 ^ 79 else 0) + k.exp * 2 ^ 64 + k.sig) ∧
    fpOf .single neg k = (if neg then 2 ^ 31 else 0) + k.exp * 2 ^ 23 + k.sig % 2 ^ 23 ∧
    fpOf .double neg k = (if neg then 2 ^ 63 else 0) + k.exp * 2 ^ 52 + k.sig % 2 ^ 52)

/-- Rounding to a multiple of 2^e (44 R922): down, up and toward zero give the neighbour on that side, nearest one at most
half a unit away and even on a tie; the result is flagged inexact exactly when it differs; a sticky rest below the unit
counts. Rounding to single, double and to the three precisions of extended: the unit is that of the leading bit, and what
overflow and a tiny result give, masked and unmasked, with the flags and C1 (R922, R923); to an element with flush to zero
(46 R1143). What a comparison finds (R926): greater, less, equal by value, infinities included, the zeros alike, or
unordered; the flags it raises for an empty register, an invalid and a denormal operand, and whether it is done. The model's
choices in it: logs 16 and 17. -/
def Obligations.RoundingAndOrder : Prop :=
  (∀ (x : Exact) (rc : BitVec 2) (e : Int) (m : ℝ), StandsFor x m → (x.sticky = true → x.exp < e) →
    RoundsTo rc x.neg e m (x.roundAt rc e)) ∧
  (∀ (f : Fmt) (p : Nat) (rc : BitVec 2) (masks : Byte) (wrap : Int) (x : Exact) (m : ℝ),
    (f, p, wrap) ∈ [(Fmt.single, 24, 0), (.double, 53, 0), (.extended, 24, 24576), (.extended, 53, 24576), (.extended, 64, 24576)] →
    Roundable p x m → RoundsIn f p rc masks wrap x.neg m (f.round p rc masks wrap x)) ∧
  (∀ (rc : BitVec 2) (p : Nat) (masks : Byte) (n : Bool) (x : Exact),
    roundExt rc p masks (.zero n) = xExact (extOf n { exp := 0, sig := 0 }) ∧
    roundExt rc p masks (.inf n) = xExact (extOf n { exp := 0x7FFF, sig := 2 ^ 63 }) ∧
    (let o := Fmt.extended.round p rc masks 24576 x
     roundExt rc p masks (.fin x) = { flags := o.flags, up := o.up, val := some (extOf x.neg o.val) })) ∧
  (∀ (mx : Word32) (f : Fmt) (n : Bool) (x : Exact), f = .single ∨ f = .double →
    sRound mx f (.zero n) = { pre := 0, post := 0, val := fpOf f n { exp := 0, sig := 0 } } ∧
    sRound mx f (.inf n) = { pre := 0, post := 0, val := fpOf f n { exp := (2 * f.emax + 1).toNat, sig := 2 ^ (f.p - 1) } } ∧
    (let masks : Byte := (mx >>> 7).setWidth 8 &&& 0x3F
     let o := f.round f.p ((mx >>> 13).setWidth 2) masks 0 x
     let flushed := mx.getLsbD 15 && masks.getLsbD 4 && o.flags.getLsbD 4
     sRound mx f (.fin x) =
       { pre := 0, post := o.flags, val := fpOf f x.neg (if flushed then { exp := 0, sig := 0 } else o.val) })) ∧
  (∀ (f : Fpu) (ordered : Bool) (a b : XArg), f.compared ordered a b = comparison f.masks ordered a b)

/-! ## Packed integers, MMX and XMM (45, 46 section 5, 48) -/

/-- The element operations, by their elements: `mapLanes` works element by element, `packLanes` narrows the destination's
elements and then the source's, `unpack` interleaves halves, the shifts act on each element, and a byte mask gathers sign
bits (45 R1060 to R1092; 48 R1360 to R1430). What an element operation gives (46 R1143 to R1149): a NaN operand is answered
quieted, the first one of two; invalid operands give the default NaN; a finite number over zero an infinity; other sums,
differences, products and quotients are rounded once; a denormal source is flagged whatever else is found. Comparisons
follow the values; maximum and minimum answer the greater and the lesser, and the source for a NaN and for equal values. A
conversion rounds by the mode, and out of range gives the integer indefinite. The reciprocal approximations of special
values are exact; those of a normal number have a relative error of at most 1.5 * 2^-12, before a denormal result is
flushed, and the inverse square root of a negative one is the default NaN (R1149). The model's choices in it: log 17. -/
def Obligations.ElementOperations : Prop :=
  (∀ (n w k : Nat) (a b : BitVec n), (n = 64 ∨ n = 128) → (w = 8 ∨ w = 16 ∨ w = 32 ∨ w = 64) → w * k < n →
     (∀ l : List (BitVec w), w * l.length ≤ n → lane w (ofLanes n l) k = l.getD k 0) ∧
     (∀ f : BitVec w → BitVec w → BitVec w, lane w (mapLanes f n a b) k = f (lane w a k) (lane w b k)) ∧
     (∀ (f : BitVec w → Nat → BitVec w) (c : Nat), lane w (shiftLanes w f a c) k = f (lane w a k) c) ∧
     (∀ x : BitVec w, ∀ j, w * j < n → lane w (setLane a k x) j = if j = k then x else lane w a j) ∧
     (∀ high : Bool, 2 * w ≤ n →
       let i := k / 2 + if high then n / w / 2 else 0
       lane w (unpack w high n a b) k = if k % 2 = 0 then lane w a i else lane w b i) ∧
     (∀ v, w = 2 * v → ∀ f : BitVec w → BitVec v,
       lane v (packLanes f n a b) k = f (lane w a k) ∧ lane v (packLanes f n a b) (n / w + k) = f (lane w b k)) ∧
     (signMask w a).getLsbD k = (lane w a k).msb ∧
     (∀ i : Int, (satS w i).toInt = max (-(2 ^ (w - 1) : Int)) (min i (2 ^ (w - 1) - 1))) ∧
     (∀ i : Int, ((satU w i).toNat : Int) = max 0 (min i (2 ^ w - 1))) ∧
     (∀ (x : BitVec w) (c : Nat),
       Machine.shl x c = x <<< c ∧ Machine.shr x c = x >>> c ∧ Machine.sar x c = x.sshiftRight c)) ∧
  (∀ (mx : Word32) (f : Fmt) (a b : Nat), f = .single ∨ f = .double →
   let den : Byte := if sDen mx f a || sDen mx f b then 2 else 0
   let snan : Prop := fpCls f a = .snan ∨ fpCls f b = .snan
   let qnan : Prop := fpCls f a = .qnan ∨ fpCls f b = .qnan
   (∀ op ∈ [sAdd, sSub, sMul, sDiv], sNan f a = true ∨ sNan f b = true →
     op mx f a b = { pre := den ||| (if snan then 1 else 0), post := 0
                     val := (if sNan f a then a else b) ||| 2 ^ (f.p - 2) }) ∧
   (∀ quiet, sCmpFlags mx f quiet a b = den ||| (if snan ∨ (qnan ∧ quiet = false) then 1 else 0)) ∧
   (sOrder mx f a b = none ↔ sNan f a = true ∨ sNan f b = true) ∧
   (sNan f a = false → sNan f b = false →
     let (x, y) := (sVal mx f a, sVal mx f b)
     let number : Val → Option ℚ
       | .zero _ => some 0
       | .fin z => some ((if z.neg then -1 else 1) * z.mant * (2 : ℚ) ^ z.exp)
       | .inf _ => none
     let picks (greater lesser : Nat) : Prop :=
       sMax mx f a b = { pre := den, post := 0, val := sRead mx f greater } ∧
       sMin mx f a b = { pre := den, post := 0, val := sRead mx f lesser }
     let invalid : SOut := { pre := den ||| 1, post := 0, val := fpIndefinite f }
     (∀ z, (x = .inf z ∧ y = .inf !z) → sAdd mx f a b = invalid) ∧
     (∀ z, (x = .inf z ∧ y = .inf z) → sSub mx f a b = invalid) ∧
     (∀ z w, (x = .inf z ∧ y = .zero w) ∨ (x = .zero z ∧ y = .inf w) → sMul mx f a b = invalid) ∧
     (∀ z w, (x = .inf z ∧ y = .inf w) ∨ (x = .zero z ∧ y = .zero w) → sDiv mx f a b = invalid) ∧
     (∀ u w, x = .fin u → y = .zero w → sDiv mx f a b = { pre := den ||| 4, post := 0, val := fpInf f (u.neg != w) }) ∧
     (∀ u w, x = .fin u → y = .fin w →
       (∀ z, Exact.add u w = some z → sAdd mx f a b = { sRound mx f (.fin z) with pre := den }) ∧
       (∀ z, Exact.add u { w with neg := !w.neg } = some z → sSub mx f a b = { sRound mx f (.fin z) with pre := den }) ∧
       (Exact.add u w = none → sAdd mx f a b = { pre := den, post := 0, val := fpZero f (sseRc mx == 1) }) ∧
       (Exact.add u { w with neg := !w.neg } = none →
         sSub mx f a b = { pre := den, post := 0, val := fpZero f (sseRc mx == 1) }) ∧
       sMul mx f a b = { sRound mx f (.fin (u.mul w)) with pre := den } ∧
       sDiv mx f a b = { sRound mx f (.fin (u.div w)) with pre := den } ∧
       (u.neg = true → sSqrt mx f b a = { pre := (if sDen mx f a then 2 else 0) ||| 1, post := 0, val := fpIndefinite f }) ∧
       (u.neg = false → sSqrt mx f b a = { sRound mx f (.fin u.sqrt) with pre := if sDen mx f a then 2 else 0 })) ∧
     (∀ p q, number x = some p → number y = some q →
       picks (if q < p then a else b) (if p < q then a else b) ∧
       sOrder mx f a b = some (if p < q then .lt else if q < p then .gt else .eq)) ∧
     (∀ z, x = .inf z → y = .inf z → picks b b ∧ sOrder mx f a b = some .eq) ∧
     (∀ z, x = .inf z → y ≠ .inf z →
       picks (if z then b else a) (if z then a else b) ∧ sOrder mx f a b = some (if z then .lt else .gt)) ∧
     (∀ z, y = .inf z → x ≠ .inf z →
       picks (if z then a else b) (if z then b else a) ∧ sOrder mx f a b = some (if z then .gt else .lt)) ∧
     (∀ rc,
       let bad : SOut := { pre := 1, post := 0, val := 0x80000000 }
       (∀ z, x = .zero z → sToInt mx rc f a = { pre := 0, post := 0, val := 0 }) ∧
       (∀ z, x = .inf z → sToInt mx rc f a = bad) ∧
       (∀ u, x = .fin u →
         let r := u.roundAt rc 0
         let n : Int := (if u.neg then -1 else 1) * r.q
         sToInt mx rc f a = if n < -2 ^ 31 ∨ 2 ^ 31 ≤ n then bad
           else { pre := 0, post := if r.inexact then 0x20 else 0, val := (n % 2 ^ 32).toNat }))) ∧
   (sNan f a = true ∨ sNan f b = true →
     sMax mx f a b = { pre := den ||| 1, post := 0, val := b } ∧ sMin mx f a b = sMax mx f a b) ∧
   (∀ rc, sNan f a = true → sToInt mx rc f a = { pre := 1, post := 0, val := 0x80000000 }) ∧
   (∀ neg, sRcp (fpZero .single neg) = fpInf .single neg ∧ sRcp (fpInf .single neg) = fpZero .single neg ∧
     sRsqrt (fpZero .single neg) = fpInf .single neg) ∧
   sRsqrt (fpInf .single false) = 0 ∧ sRsqrt (fpInf .single true) = fpIndefinite .single ∧
   (∀ v, fpCls .single v = .normal →
     let value (u : Nat) : ℚ :=
       let z := fpExact .single u
       (if z.neg then -1 else 1) * z.mant * (2 : ℚ) ^ z.exp
     let finite (u : Nat) : Prop := fpCls .single u = .normal ∨ fpCls .single u = .denormal
     (∃ y, finite y ∧ |value y * value v - 1| ≤ 3 / 2 ^ 13 ∧ sRcp v = sFlush y) ∧
     (fpNeg .single v = true → sRsqrt v = fpIndefinite .single) ∧
     (fpNeg .single v = false → ∃ y, finite y ∧ 0 < value y ∧ (1 - 3 / 2 ^ 13) ^ 2 ≤ value y ^ 2 * value v ∧
       value y ^ 2 * value v ≤ (1 + 3 / 2 ^ 13) ^ 2 ∧ sRsqrt v = sFlush y)))

/-- Packed addition and subtraction, wrapping and saturating, minimum, maximum, average, comparison and logic, each on both
register files (45 R1073 to R1088; 46 R1211 to R1217; 48 R1380 to R1410). Packed multiplication and the sum of absolute
differences (45 R1079 to R1082; 46 R1219, R1220; 48 R1388 to R1392, R1399). -/
def Obligations.PackedArithmetic : Prop :=
  (let lane8 (mk : Pk → Instr) (f : BitVec 8 → BitVec 8 → BitVec 8) : Prop := PkRuns mk (mapLanes f)
   let lane16 (mk : Pk → Instr) (f : BitVec 16 → BitVec 16 → BitVec 16) : Prop := PkRuns mk (mapLanes f)
   let lane32 (mk : Pk → Instr) (f : BitVec 32 → BitVec 32 → BitVec 32) : Prop := PkRuns mk (mapLanes f)
   let lane64 (mk : Pk → Instr) (f : BitVec 64 → BitVec 64 → BitVec 64) : Prop := PkRuns mk (mapLanes f)
   lane8 .paddb (fun a b => a + b) ∧ lane16 .paddw (fun a b => a + b) ∧ lane32 .paddd (fun a b => a + b) ∧
   lane64 .paddq (fun a b => a + b) ∧
   lane8 .psubb (fun a b => a - b) ∧ lane16 .psubw (fun a b => a - b) ∧ lane32 .psubd (fun a b => a - b) ∧
   lane64 .psubq (fun a b => a - b) ∧
   lane8 .paddsb (fun a b => satS 8 (a.toInt + b.toInt)) ∧ lane16 .paddsw (fun a b => satS 16 (a.toInt + b.toInt)) ∧
   lane8 .psubsb (fun a b => satS 8 (a.toInt - b.toInt)) ∧ lane16 .psubsw (fun a b => satS 16 (a.toInt - b.toInt)) ∧
   lane8 .paddusb (fun a b => satU 8 (a.toNat + b.toNat)) ∧ lane16 .paddusw (fun a b => satU 16 (a.toNat + b.toNat)) ∧
   lane8 .psubusb (fun a b => satU 8 ((a.toNat : Int) - b.toNat)) ∧
   lane16 .psubusw (fun a b => satU 16 ((a.toNat : Int) - b.toNat)) ∧
   lane8 .pavgb (fun a b => BitVec.ofNat 8 ((a.toNat + b.toNat + 1) / 2)) ∧
   lane16 .pavgw (fun a b => BitVec.ofNat 16 ((a.toNat + b.toNat + 1) / 2)) ∧
   lane16 .pmaxsw (fun a b => if decide (a.toInt > b.toInt) then a else b) ∧
   lane16 .pminsw (fun a b => if decide (a.toInt < b.toInt) then a else b) ∧
   lane8 .pmaxub (fun a b => if decide (a.toNat > b.toNat) then a else b) ∧
   lane8 .pminub (fun a b => if decide (a.toNat < b.toNat) then a else b) ∧
   lane8 .pcmpeqb (fun a b => if a == b then 0xFF else 0) ∧ lane16 .pcmpeqw (fun a b => if a == b then 0xFFFF else 0) ∧
   lane32 .pcmpeqd (fun a b => if a == b then 0xFFFFFFFF else 0) ∧
   lane8 .pcmpgtb (fun a b => if decide (a.toInt > b.toInt) then 0xFF else 0) ∧
   lane16 .pcmpgtw (fun a b => if decide (a.toInt > b.toInt) then 0xFFFF else 0) ∧
   lane32 .pcmpgtd (fun a b => if decide (a.toInt > b.toInt) then 0xFFFFFFFF else 0) ∧
   PkRuns .pand (fun _ a b => a &&& b) ∧ PkRuns .pandn (fun _ a b => ~~~a &&& b) ∧ PkRuns .por (fun _ a b => a ||| b) ∧
   PkRuns .pxor (fun _ a b => a ^^^ b)) ∧
  (let lane16 (mk : Pk → Instr) (f : BitVec 16 → BitVec 16 → BitVec 16) : Prop := PkRuns mk (mapLanes f)
   let lane32 (mk : Pk → Instr) (f : BitVec 32 → BitVec 32 → BitVec 32) : Prop := PkRuns mk (mapLanes f)
   let lane64 (mk : Pk → Instr) (f : BitVec 64 → BitVec 64 → BitVec 64) : Prop := PkRuns mk (mapLanes f)
   lane16 .pmullw (fun a b => BitVec.ofInt 16 (a.toInt * b.toInt)) ∧
   lane16 .pmulhw (fun a b => BitVec.ofInt 16 (a.toInt * b.toInt / 2 ^ 16)) ∧
   lane16 .pmulhuw (fun a b => BitVec.ofNat 16 (a.toNat * b.toNat / 2 ^ 16)) ∧
   lane64 .pmuludq (fun a b => BitVec.ofNat 64 (a.toNat % 2 ^ 32 * (b.toNat % 2 ^ 32))) ∧
   lane32 .pmaddwd (fun a b =>
     BitVec.ofInt 32 ((lane 16 a 0).toInt * (lane 16 b 0).toInt + (lane 16 a 1).toInt * (lane 16 b 1).toInt)) ∧
   lane64 .psadbw (fun a b =>
     BitVec.ofNat 64 ((List.range 8).map fun k => ((lane 8 a k).toNat - (lane 8 b k).toNat : Int).natAbs).sum))

/-- Pack, unpack, shift, extract, insert, mask and shuffle (45 R1068 to R1072, R1090 to R1092; 46 R1212, R1213, R1218,
R1221; 48 R1371 to R1377, R1415 to R1430). -/
def Obligations.PackedShapes : Prop :=
  let shuffle (v : Word64) (n : Byte) : Word64 :=
    let e (k : Nat) : Word16 := lane 16 v (n.toNat / 4 ^ k % 4)
    e 3 ++ e 2 ++ e 1 ++ e 0
  PkRuns .packsswb (packLanes fun x : BitVec 16 => satS 8 x.toInt) ∧
  PkRuns .packssdw (packLanes fun x : BitVec 32 => satS 16 x.toInt) ∧
  PkRuns .packuswb (packLanes fun x : BitVec 16 => satU 8 x.toInt) ∧
  PkRuns .punpckhbw (unpack 8 true) ∧ PkRuns .punpckhwd (unpack 16 true) ∧ PkRuns .punpckhdq (unpack 32 true) ∧
  UnpacksLow .punpcklbw 8 ∧ UnpacksLow .punpcklwd 16 ∧ UnpacksLow .punpckldq 32 ∧
  XRuns .punpckhqdq (fun a b => lane 64 b 1 ++ lane 64 a 1) ∧ XRuns .punpcklqdq (fun a b => lane 64 b 0 ++ lane 64 a 0) ∧
  PkShifts 16 .psllw Machine.shl ∧ PkShifts 32 .pslld Machine.shl ∧ PkShifts 64 .psllq Machine.shl ∧
  PkShifts 16 .psraw Machine.sar ∧ PkShifts 32 .psrad Machine.sar ∧
  PkShifts 16 .psrlw Machine.shr ∧ PkShifts 32 .psrld Machine.shr ∧ PkShifts 64 .psrlq Machine.shr ∧
  (∀ r n, When (.pslldq r n) false nothing (fun u _ => vReady u) fun u _ => setX u r (xmm u r <<< (8 * n.toNat))) ∧
  (∀ r n, When (.psrldq r n) false nothing (fun u _ => vReady u) fun u _ => setX u r (xmm u r >>> (8 * n.toNat))) ∧
  (∀ d r n, When (.pextrw (.mm d r) n) false nothing (fun u _ => xReady u) fun u _ =>
    asMmx (u.setReg32 d ((lane 16 (mm u r) (n.toNat % 4)).setWidth 32))) ∧
  (∀ d r n, When (.pextrw (.xmm d r) n) false nothing (fun u _ => vReady u) fun u _ =>
    u.setReg32 d ((lane 16 (xmm u r) (n.toNat % 8)).setWidth 32)) ∧
  (∀ d x n, When (.pinsrw (.mm d x) n) false (fun _ => readRm .w x) (fun u _ => xReady u) fun u v =>
    setMmx u d (setLane (mm u d) (n.toNat % 4) v)) ∧
  (∀ d x n, When (.pinsrw (.xmm d x) n) false (fun _ => readRm .w x) (fun u _ => vReady u) fun u v =>
    setX u d (setLane (xmm u d) (n.toNat % 8) v)) ∧
  (∀ d r, When (.pmovmskb (.mm d r)) false nothing (fun u _ => xReady u) fun u _ =>
    asMmx (u.setReg32 d (signMask 8 (mm u r)))) ∧
  (∀ d r, When (.pmovmskb (.xmm d r)) false nothing (fun u _ => vReady u) fun u _ =>
    u.setReg32 d (signMask 8 (xmm u r))) ∧
  (∀ d x n, MmxRun (.pshufw d x n) x fun u v => setMmx u d (shuffle v n)) ∧
  (∀ d x n, XmmRun (.pshufd d x n) x fun u v =>
    let e (k : Nat) : Word32 := lane 32 v (n.toNat / 4 ^ k % 4)
    setX u d (e 3 ++ e 2 ++ e 1 ++ e 0)) ∧
  (∀ d x n, XmmRun (.pshufhw d x n) x fun u v => setX u d (shuffle (lane 64 v 1) n ++ lane 64 v 0)) ∧
  (∀ d x n, XmmRun (.pshuflw d x n) x fun u v => setX u d (lane 64 v 1 ++ shuffle (lane 64 v 0) n))

/-- MOVD, MOVQ, the 16-byte integer moves, EMMS, the moves between the register files, the masked and non-temporal stores
(45 R1065 to R1067; 46 R1225 to R1227; 48 R1365 to R1370, R1440 to R1444). The prefetch hints, the fences and PAUSE do
nothing in one processor; CLFLUSH makes the checks of a one-byte read (46 R1228 to R1232; 48 R1441, R1445 to R1447). The
model's choices in it: that hints and fences change nothing and that LFENCE and MFENCE run where an instruction on XMM
registers may (log 24), that CLFLUSH counts as a read for data breakpoints (log 10), and that MOVDQU may or may not raise
#AC (log 32). -/
def Obligations.PackedMovesAndHints : Prop :=
  (When .emms false nothing (fun u _ => xReady u) (fun u _ => withFpu u { u.fpu with tw := 0xFFFF }) ∧
   (∀ d x, When (.movd (.toMm d x)) false (fun _ => readRm .d x) (fun u _ => xReady u) fun u v => setMmx u d (v.setWidth 64)) ∧
   (∀ d x, When (.movd (.toXmm d x)) false (fun _ => readRm .d x) (fun u _ => vReady u) fun u v => setX u d (v.setWidth 128)) ∧
   (∀ x r, When (.movd (.fromMm x r)) false (fun _ => locate .d x true) (fun u _ => xReady u)
     (fun u l => asMmx (u.place .d l ((mm u r).setWidth 32))) (stored := fun _ l => l.bytes)) ∧
   (∀ x r, When (.movd (.fromXmm x r)) false (fun _ => locate .d x true) (fun u _ => vReady u)
     (fun u l => u.place .d l ((xmm u r).setWidth 32)) (stored := fun _ l => l.bytes)) ∧
   (∀ d x, MmxRun (.movq (.toMm d x)) x fun u v => setMmx u d v) ∧
   (∀ d r, When (.movq (.fromMm (.reg d) r)) false nothing (fun u _ => xReady u) fun u _ => setMmx u d (mm u r)) ∧
   (∀ m r, When (.movq (.fromMm (.mem m) r)) false (fun _ => memAddrs m 8 true) (fun u _ => xReady u)
     (fun u as => asMmx (physWriteNat u (mm u r).toNat as)) (stored := fun _ as => as)) ∧
   (∀ d r, When (.movq (.toXmm d (.reg r))) false nothing (fun u _ => vReady u) fun u _ =>
     setX u d ((lane 64 (xmm u r) 0).setWidth 128)) ∧
   (∀ d m, When (.movq (.toXmm d (.mem m))) false (fun _ => readMem 64 m) (fun u _ => vReady u) fun u v =>
     setX u d (v.setWidth 128)) ∧
   (∀ d r, When (.movq (.fromXmm (.reg d) r)) false nothing (fun u _ => vReady u) fun u _ =>
     setX u d ((lane 64 (xmm u r) 0).setWidth 128)) ∧
   (∀ m r, When (.movq (.fromXmm (.mem m) r)) false (fun _ => memAddrs m 8 true) (fun u _ => vReady u)
     (fun u as => physWriteNat u (lane 64 (xmm u r) 0).toNat as) (stored := fun _ as => as)) ∧
   Moves16 true .movdqa ∧ Moves16 false .movdqu ∧
   (∀ d r, When (.movq2dq d r) false nothing (fun u _ => bothReady u) fun u _ => asMmx (setX u d ((mm u r).setWidth 128))) ∧
   (∀ d r, When (.movdq2q d r) false nothing (fun u _ => bothReady u) fun u _ => setMmx u d ((xmm u r).setWidth 64)) ∧
   (∀ d m, When (.maskmovq d m) false
     (fun u => maskSlots (u.dataSeg .ds) (u.reg32 rDI) (lanes 8 (mm u d)) (lanes 8 (mm u m)) 0) (fun u _ => xReady u)
     (fun u l => asMmx (l.foldl (fun t p => physWrite8 t p.1 p.2) u)) (stored := fun _ l => l.map fun p => p.1)) ∧
   (∀ d m, When (.maskmovdqu d m) false
     (fun u => maskSlots (u.dataSeg .ds) (u.reg32 rDI) (lanes 8 (xmm u d)) (lanes 8 (xmm u m)) 0) (fun u _ => vReady u)
     (fun u l => l.foldl (fun t p => physWrite8 t p.1 p.2) u) (stored := fun _ l => l.map fun p => p.1)) ∧
   (∀ m r, When (.movntq m r) false (fun _ => memAddrs m 8 true) (fun u _ => xReady u)
     (fun u as => asMmx (physWriteNat u (mm u r).toNat as)) (stored := fun _ as => as)) ∧
   Stores16 .movntps ∧ Stores16 .movntpd ∧ Stores16 .movntdq ∧
   (∀ m r, When (.movnti m r) false (fun _ => memAddrs m 4 true) always (fun u as => physWriteNat u (u.reg32 r).toNat as)
     (stored := fun _ as => as))) ∧
  ((∀ m, Acts (.prefetchnta m) [] fun u => u) ∧ (∀ m, Acts (.prefetcht0 m) [] fun u => u) ∧
   (∀ m, Acts (.prefetcht1 m) [] fun u => u) ∧ (∀ m, Acts (.prefetcht2 m) [] fun u => u) ∧
   Acts .sfence [] (fun u => u) ∧ Acts .pause [] (fun u => u) ∧
   When .lfence false nothing (fun u _ => vReady u) (fun u _ => u) ∧
   When .mfence false nothing (fun u _ => vReady u) (fun u _ => u) ∧
   (∀ m, When (.clflush m) false (fun _ => memAddrs m 1 false) always (fun u _ => u)))

/-! ## Floating point in XMM registers (46, 47, 49) -/

/-- The moves of SSE, SSE2 and SSE3 (46 R1155 to R1162, R1202, R1203; 47 R1270 to R1275; 49 R1485 to R1488). LDMXCSR with a
bit set that MXCSR_MASK does not allow is #GP(0). The model's choices in it: the two values that MXCSR_MASK may have (log
27), and that the unaligned moves may or may not raise #AC (log 32). -/
def Obligations.VectorMoves : Prop :=
  Moves16 true .movaps ∧ Moves16 false .movups ∧ Moves16 true .movapd ∧ Moves16 false .movupd ∧
  (∀ d m, When (.lddqu d m) false (fun _ => readMem 128 m) (fun u _ => vReady u) fun u v => setX u d v) ∧
  MovesScalar 32 .movss ∧ MovesScalar 64 .movsd ∧
  MovesHalf false .movlps ∧ MovesHalf true .movhps ∧ MovesHalf false .movlpd ∧ MovesHalf true .movhpd ∧
  (∀ d r, When (.movhlps d r) false nothing (fun u _ => vReady u) fun u _ =>
    setX u d (lane 64 (xmm u d) 1 ++ lane 64 (xmm u r) 1)) ∧
  (∀ d r, When (.movlhps d r) false nothing (fun u _ => vReady u) fun u _ =>
    setX u d (lane 64 (xmm u r) 0 ++ lane 64 (xmm u d) 0)) ∧
  (∀ d r, When (.movmskps d r) false nothing (fun u _ => vReady u) fun u _ =>
    let b (k : Nat) : BitVec 1 := BitVec.ofBool ((xmm u r).getLsbD k)
    u.setReg32 d ((b 127 ++ b 95 ++ b 63 ++ b 31).setWidth 32)) ∧
  (∀ d r, When (.movmskpd d r) false nothing (fun u _ => vReady u) fun u _ =>
    let b (k : Nat) : BitVec 1 := BitVec.ofBool ((xmm u r).getLsbD k)
    u.setReg32 d ((b 127 ++ b 63).setWidth 32)) ∧
  (∀ d x, When (.movddup d x) false (fun _ => readXmmRm 64 x) (fun u _ => vReady u) fun u v => setX u d (v ++ v)) ∧
  XRuns .movshdup (fun _ b => lane 32 b 3 ++ lane 32 b 3 ++ lane 32 b 1 ++ lane 32 b 1) ∧
  XRuns .movsldup (fun _ b => lane 32 b 2 ++ lane 32 b 2 ++ lane 32 b 0 ++ lane 32 b 0) ∧
  (∀ m, When (.ldmxcsr m) false (fun _ => readMem 32 m) (fun u v => vReady u && v &&& ~~~Config.mxcsrMask == 0) fun u v =>
    { u with mxcsr := v }) ∧
  (∀ m, Traps (.ldmxcsr m) (fun _ => readMem 32 m) (fun u v => vReady u && v &&& ~~~Config.mxcsrMask != 0)
    { vector := 13, err := some 0 }) ∧
  (∀ m, When (.stmxcsr m) false (fun _ => memAddrs m 4 true) (fun u _ => vReady u)
    (fun u as => physWriteNat u u.mxcsr.toNat as) (stored := fun _ as => as))

/-- Logic, shuffle and unpack of floating-point operands as bits, and the approximations (46 R1149, R1175 to R1178, R1185 to
R1188, R1193 to R1195; 47 R1300 to R1303, R1308 to R1310). The model's choice in it: how a reciprocal approximation stays
within its bound (log 43). -/
def Obligations.VectorBitwiseAndShuffles : Prop :=
  let word (v : Word128) (n : Byte) (k : Nat) : Word32 := lane 32 v (n.toNat / 4 ^ k % 4)
  XRuns .andps (fun a b => a &&& b) ∧ XRuns .andpd (fun a b => a &&& b) ∧
  XRuns .andnps (fun a b => ~~~a &&& b) ∧ XRuns .andnpd (fun a b => ~~~a &&& b) ∧
  XRuns .orps (fun a b => a ||| b) ∧ XRuns .orpd (fun a b => a ||| b) ∧
  XRuns .xorps (fun a b => a ^^^ b) ∧ XRuns .xorpd (fun a b => a ^^^ b) ∧
  XRuns .unpckhps (fun a b => lane 32 b 3 ++ lane 32 a 3 ++ lane 32 b 2 ++ lane 32 a 2) ∧
  XRuns .unpcklps (fun a b => lane 32 b 1 ++ lane 32 a 1 ++ lane 32 b 0 ++ lane 32 a 0) ∧
  XRuns .unpckhpd (fun a b => lane 64 b 1 ++ lane 64 a 1) ∧ XRuns .unpcklpd (fun a b => lane 64 b 0 ++ lane 64 a 0) ∧
  (∀ d x n, XmmRun (.shufps d x n) x fun u b =>
    setX u d (word b n 3 ++ word b n 2 ++ word (xmm u d) n 1 ++ word (xmm u d) n 0)) ∧
  (∀ d x n, XmmRun (.shufpd d x n) x fun u b =>
    setX u d (lane 64 b (n.toNat / 2 % 2) ++ lane 64 (xmm u d) (n.toNat % 2))) ∧
  XRuns .rcpps (fun _ b => fromElems 32 ((elems 32 4 b).map sRcp)) ∧
  XRuns .rsqrtps (fun _ b => fromElems 32 ((elems 32 4 b).map sRsqrt)) ∧
  (∀ d x, When (.rcpss d x) false (fun _ => readXmmRm 32 x) (fun u _ => vReady u) fun u b =>
    setX u d (lowSet 32 (xmm u d) (sRcp b.toNat))) ∧
  (∀ d x, When (.rsqrtss d x) false (fun _ => readXmmRm 32 x) (fun u _ => vReady u) fun u b =>
    setX u d (lowSet 32 (xmm u d) (sRsqrt b.toNat)))

/-- Add, subtract, multiply, divide, square root, maximum and minimum in their four forms, the alternating and the
horizontal forms (46 R1165 to R1182; 47 R1280 to R1293; 49 R1475 to R1480). Sum, difference, product, quotient and root of
elements that are no NaNs are the operations X87Arithmetic states on zeros, infinities and numbers, rounded. The model's
choices in it: log 17. -/
def Obligations.VectorArithmetic : Prop :=
  ElementResults ∧
  VForms .addps .addpd .addss .addsd sAdd ∧ VForms .subps .subpd .subss .subsd sSub ∧
  VForms .mulps .mulpd .mulss .mulsd sMul ∧ VForms .divps .divpd .divss .divsd sDiv ∧
  VForms .sqrtps .sqrtpd .sqrtss .sqrtsd sSqrt ∧
  VForms .maxps .maxpd .maxss .maxsd sMax ∧ VForms .minps .minpd .minss .minsd sMin ∧
  VAlternating .addsubps 32 .single ∧ VAlternating .addsubpd 64 .double ∧
  VHorizontal .haddps 32 .single sAdd ∧ VHorizontal .haddpd 64 .double sAdd ∧
  VHorizontal .hsubps 32 .single sSub ∧ VHorizontal .hsubpd 64 .double sSub

/-- Comparisons to masks and to flags, and conversions (46 R1189 to R1192, R1196 to R1201; 47 R1304 to R1307, R1320 to
R1335): the mask of each predicate and its flags by the order of the elements (R1146), an integer rounded to a format
(R1148), and a value of one format in the other, the bits of a NaN kept (47 R1264). The model's choices in it: log 17. -/
def Obligations.VectorComparisonsAndConversions : Prop :=
  ElementMasks ∧ ElementConversions ∧
  (∀ n, VPacked (fun d x => .cmpps d x n) 32 .single (sCmp n) ∧ VPacked (fun d x => .cmppd d x n) 64 .double (sCmp n) ∧
    VScalar (fun d x => .cmpss d x n) 32 .single (sCmp n) ∧ VScalar (fun d x => .cmpsd d x n) 64 .double (sCmp n)) ∧
  VCompare .comiss 32 .single false ∧ VCompare .comisd 64 .double false ∧
  VCompare .ucomiss 32 .single true ∧ VCompare .ucomisd 64 .double true ∧
  FromMmx .cvtpi2ps 32 .single ∧ FromMmx .cvtpi2pd 64 .double ∧
  ToMmx .cvtps2pi 32 64 (readXmmRm 64) .single rcOf ∧ ToMmx .cvttps2pi 32 64 (readXmmRm 64) .single chop ∧
  ToMmx .cvtpd2pi 64 128 readX .double rcOf ∧ ToMmx .cvttpd2pi 64 128 readX .double chop ∧
  FromGpr .cvtsi2ss 32 .single ∧ FromGpr .cvtsi2sd 64 .double ∧
  ToGpr .cvtss2si 32 .single rcOf ∧ ToGpr .cvttss2si 32 .single chop ∧
  ToGpr .cvtsd2si 64 .double rcOf ∧ ToGpr .cvttsd2si 64 .double chop ∧
  ConvertsLow .cvtsd2ss 64 32 (fun mx => sConvert mx .double .single) ∧
  ConvertsLow .cvtss2sd 32 64 (fun mx => sConvert mx .single .double) ∧
  ConvertsAll .cvtpd2ps 128 64 2 32 readX (fun u => sConvert u.mxcsr .double .single) ∧
  ConvertsAll .cvtps2pd 64 32 2 64 (readXmmRm 64) (fun u => sConvert u.mxcsr .single .double) ∧
  ConvertsAll .cvtpd2dq 128 64 2 32 readX (fun u => sToInt u.mxcsr (rcOf u) .double) ∧
  ConvertsAll .cvttpd2dq 128 64 2 32 readX (fun u => sToInt u.mxcsr 3 .double) ∧
  ConvertsAll .cvtdq2pd 64 32 2 64 (readXmmRm 64) (fun u n => sOfInt u.mxcsr .double (BitVec.ofNat 32 n)) ∧
  ConvertsAll .cvtps2dq 128 32 4 32 readX (fun u => sToInt u.mxcsr (rcOf u) .single) ∧
  ConvertsAll .cvttps2dq 128 32 4 32 readX (fun u => sToInt u.mxcsr 3 .single) ∧
  ConvertsAll .cvtdq2ps 128 32 4 32 readX (fun u n => sOfInt u.mxcsr .single (BitVec.ofNat 32 n))

/-! ## Taking an exception (60 R1500 to R1513) -/

/-- In real-address mode delivery pushes FLAGS, CS and IP, clears IF, TF and AC and goes to the vector, which is read after
the pushes (60 R1500, R1504); a table too short is #GP(0), and a push from the offset 1 shuts the processor down (41 R620).
The model's choices in it: that CS keeps its hidden limit and rights and that SS.B counts (log 25), that every delivery ends
the shadow of STI (log 7), and the RF of the pushed image (log 44). -/
def Obligations.RealModeDelivery : Prop := ∀ (e : Event) (saved : Word32) (s : State),
  s.pe = false → s.paging = false →
  (s.idtr.limit.toNat < 4 * e.vector.toNat + 3 → deliver e saved s = .error (.event { vector := 13, err := some 0 }) s) ∧
  (4 * e.vector.toNat + 3 ≤ s.idtr.limit.toNat →
    let big := s.ss.db
    let t := writeFrame 2 (fun k => s.ss.base + slotOff big s.esp 2 k) s [s.flagsImage e.kind, s.cs.sel.setWidth 32, saved]
    let target := readLinear t (s.idtr.base + BitVec.ofNat 32 (4 * e.vector.toNat)) 4
    let sel := BitVec.ofNat 16 (target / 2 ^ 16)
    (s.stackOff s.esp = 1 → deliver e saved s = .error .shutdown s) ∧
    ((∀ k, k < 3 → s.inLimit s.ss (slotOff big s.esp 2 k) 2 = true ∧ stackBelow big s.esp (2 * k) ≠ 1) →
      deliver e saved s = .ok () (delivered ((({ t with
        gpr := s.gpr.set rSP (downBy big s.esp 6)
        cs := { s.cs with sel, base := sel.setWidth 32 <<< 4 }
        eip := BitVec.ofNat 32 (target % 2 ^ 16) }.setFlag fIF false).setFlag fTF false).setFlag fAC false))))

/-- In protected mode delivery through a 32-bit gate at the same privilege level pushes EFLAGS, CS and EIP and the error
code if there is one; to an inner level it takes the stack from the TSS and pushes the old SS and ESP first; CS gets the new
level as its RPL (60 R1500, R1505, R1506, R1511 to R1513). The upper halves of the selector slots are open. Where alignment
checking is on, a frame pushed at level 3 to an unaligned stack is #AC(0) (20_memory R208). The model's choices in it: logs
3 and 10, that every delivery ends the shadow of STI (log 7), and the RF of the pushed image (log 44). -/
def Obligations.ProtectedModeDelivery : Prop := ∀ (e : Event) (saved : Word32) (s : State) (g d : Word64), GateOpen e s g d →
  let c := segOfDesc (gateSel g) d
  let err := e.err.toList
  (c.conforming = true ∨ c.dpl = s.cpl →
    (∀ k, k < 3 + err.length → s.ss.limitOk (slotOff s.ss.db s.esp 4 k) 4 = true) →
    let unaligned (k : Nat) : Prop := s.alignOn = true ∧ (s.ss.base + slotOff s.ss.db s.esp 4 k).toNat % 4 ≠ 0
    (unaligned 0 →
      deliver e saved s = .error (.event { vector := 17, err := some 0 }) { s with draws := s.draws + 1 }) ∧
    ((∀ k, k < 3 + err.length → ¬unaligned k) → ∃ x : Word16,
      let vals := [s.flagsImage e.kind, x ++ s.cs.sel, saved] ++ err
      let t := writeFrame 4 (fun k => s.ss.base + slotOff s.ss.db s.esp 4 k) s vals
      deliver e saved s = .ok () (delivered (inHandler g { t with
        cs := segOfDesc (withRpl (gateSel g) s.cpl) d, eip := gateOff g, draws := s.draws + 1
        gpr := s.gpr.set rSP (downBy s.ss.db s.esp (4 * vals.length)) })))) ∧
  (c.conforming = false → c.dpl < s.cpl → s.tr.typ ≠ 1 → s.tr.typ ≠ 3 → 8 * c.dpl.toNat + 9 ≤ s.tr.limit.toNat →
    ∀ newSs newEsp a sd,
      newEsp = BitVec.ofNat 32 (readLinear s (s.tr.base + BitVec.ofNat 32 (8 * c.dpl.toNat + 4)) 4) →
      newSs = BitVec.ofNat 16 (readLinear s (s.tr.base + BitVec.ofNat 32 (8 * c.dpl.toNat + 8)) 2) →
      isNull newSs = false → s.descAddr newSs = some a → sd = BitVec.ofNat 64 (readLinear s a 8) →
      let ss := segOfDesc newSs sd
      selRpl newSs = c.dpl → ss.dpl = c.dpl → ss.writable = true → ss.p = true → sd.getLsbD 40 = true →
      (∀ k, k < 5 + err.length → ss.limitOk (slotOff ss.db newEsp 4 k) 4 = true) →
      ∃ x y : Word16,
        let vals := [y ++ s.ss.sel, s.esp, s.flagsImage e.kind, x ++ s.cs.sel, saved] ++ err
        let t := writeFrame 4 (fun k => ss.base + slotOff ss.db newEsp 4 k) s vals
        deliver e saved s = .ok () (delivered (inHandler g { t with
          cpl := c.dpl, ss := ss, cs := segOfDesc (withRpl (gateSel g) c.dpl) d, eip := gateOff g, draws := s.draws + 2
          gpr := s.gpr.set rSP (downBy ss.db newEsp (4 * vals.length)) })))

/-- A gate or a descriptor that does not let the event through raises the exception 60 R1500 names, its error code with the
IDT or the EXT bit (60 R1520), as does a target that is no code segment of a level at least as privileged, is not present or
too short, a stack without room, and, for an inner level, a TSS too short or a stack segment that fails its checks (R1512,
R1513); stated with paging off, a 16-bit TSS being refused (92 D7). A fault met while a fault is delivered is a double fault
by its class, at the third shutdown (60 R1527, R1528). Seven deliveries are tried in one step, and a chain of faults that
goes on, as only benign ones allow, is continued by the next step (log 5). The model's choices in it: logs 5 and 30. -/
def Obligations.DeliveryFaults : Prop :=
  (∀ (e : Event) (saved : Word32) (s : State), s.pe = true → s.flag fVM = false → s.paging = false →
    let ext : Word32 := if e.kind = .soft then 0 else 1
    let idt : Word32 := BitVec.ofNat 32 (8 * e.vector.toNat + 2) + ext
    let gp (err : Word32) : Prop := deliver e saved s = .error (.event { vector := 13, err := some err }) s
    let g : Word64 := BitVec.ofNat 64 (readLinear s (s.idtr.base + BitVec.ofNat 32 (8 * e.vector.toNat)) 8)
    (s.idtr.limit.toNat < 8 * e.vector.toNat + 7 → gp idt) ∧
    (8 * e.vector.toNat + 7 ≤ s.idtr.limit.toNat →
      (g.toNat / 2 ^ 40 % 32 ∉ [5, 6, 7, 14, 15] → gp idt) ∧
      (g.toNat / 2 ^ 40 % 32 ∈ [5, 6, 7, 14, 15] →
        (e.kind = .soft → g.toNat / 2 ^ 45 % 4 < s.cpl.toNat → gp idt) ∧
        ((e.kind = .soft → s.cpl.toNat ≤ g.toNat / 2 ^ 45 % 4) →
          (g.getLsbD 47 = false → deliver e saved s = .error (.event { vector := 11, err := some idt }) s) ∧
          (g.getLsbD 47 = true → g.toNat / 2 ^ 40 % 32 ≠ 5 →
            (isNull (gateSel g) = true → gp ext) ∧
            (isNull (gateSel g) = false → s.descAddr (gateSel g) = none → gp (selErr (gateSel g) + ext)) ∧
            (∀ a, isNull (gateSel g) = false → s.descAddr (gateSel g) = some a → TargetFaults e saved s g a ext)))))) ∧
  (∀ (e : Event) (pc saved : Word32) (s : State) (n : Nat),
    takeEvent e pc saved s = deliverEvent e pc saved s 7 ∧
    deliverEvent e pc saved s 0 = .next { s with redeliver := some { event := e, pc, savedEip := saved } } ∧
    ∀ t,
      (deliver e saved (e.note s) = .ok () t →
        deliverEvent e pc saved s (n + 1) = .next (t.recordBranch ((e.note s).cs.base + pc) (t.cs.base + t.eip))) ∧
      (deliver e saved (e.note s) = .error .shutdown t →
        deliverEvent e pc saved s (n + 1) = .next (State.enterShutdown
          { (e.note s) with mem := t.mem, adMarks := t.adMarks, apic := t.apic, tlb := t.tlb, draws := t.draws }))) ∧
  (∀ (e e2 : Event) (pc saved : Word32) (s t : State) (n : Nat), deliver e saved (e.note s) = .error (.event e2) t →
    let kept := { (e.note s) with mem := t.mem, adMarks := t.adMarks, apic := t.apic, tlb := t.tlb, draws := t.draws }
    let res := deliverEvent e pc saved s (n + 1)
    let contributory (x : Event) : Prop := x.kind = .fault ∧ x.vector ∈ [0, 10, 11, 12, 13]
    let page (x : Event) : Prop := x.kind = .fault ∧ x.vector = 14
    (e.vector = 8 → e.kind = .abort → res = .next kept.enterShutdown) ∧
    (e.kind ≠ .abort → (contributory e ∧ contributory e2) ∨ (page e ∧ (contributory e2 ∨ page e2)) →
      ∃ eip, res = deliverEvent { vector := 8, kind := .abort, err := some 0 } pc eip { kept with draws := kept.draws + 1 } n) ∧
    (e.kind ≠ .abort → ¬(contributory e ∧ contributory e2) → ¬(page e ∧ (contributory e2 ∨ page e2)) →
      res = deliverEvent e2 pc (if e.kind = .soft ∧ e2.vector ≠ 11 then pc else saved) kept n))

/-! ## Addresses (20_memory R208 to R218) -/

/-- The checks of a data access: the segment's presence, type and limit, expand-down segments included, then alignment where
it is on (20_memory R208, R212, R213); in real-address mode offsets end at FFFFH whatever the hidden limit (R212, R215). The
model's choices in it: in real-address mode the hidden type and rights are not looked at (log 25), in SMM the limit is the
register's (log 8), and a 10-byte access is aligned to 8 bytes (log 10). What is stored is read back, least significant byte
first, and nothing else changes (R205, R207). In the local APIC's page ISR, TMR and IRR are read only (10_state R170), and
end of interrupt and task priority stand at the addresses of log 13. -/
def Obligations.SegmentAndAlignmentChecks : Prop := MemoryLaws ∧ LocalApicPage ∧ ∀ (sg : Seg) (off : Word32) (n : Nat) (write : Bool) (s : State), 0 < n →
  let r := s.seg sg
  let code := r.typ.getLsbD 3
  let usable := r.p && r.s && (if write then !code && r.typ.getLsbD 1 else !code || r.typ.getLsbD 1)
  let last := off.toNat + n - 1
  let within := if !(s.pe || s.inSmm) then decide (off.toNat + n ≤ 2 ^ 16) else if r.s && !code && r.typ.getLsbD 2 then
      decide (r.limit.toNat < off.toNat) && decide (last < if r.db then 2 ^ 32 else 2 ^ 16)
    else decide (last ≤ r.limit.toNat)
  let gp : EStateM.Result Halt State Word32 := .error (.event { vector := 13, err := some 0 }) s
  (s.pe = true → usable = false → linear sg off n write s = gp) ∧
  (s.pe = false ∨ usable = true → within = false →
    linear sg off n write s = if sg = .ss then .error (.event { vector := 12, err := some 0 }) s else gp) ∧
  (s.pe = false ∨ usable = true → within = true → linear sg off n write s = .ok (r.base + off) s) ∧
  (∀ as t, linear sg off n write s = .ok (r.base + off) s →
    translateRange (r.base + off) n write (s.cpl == 3) s = .ok as t →
    (n = 2 ∨ n = 4 ∨ n = 8 ∨ n = 10) → (r.base + off).toNat % (if n = 10 then 8 else n) ≠ 0 →
    s.cr0.getLsbD 18 = true → s.eflags.getLsbD 18 = true → s.cpl = 3 →
    dataAddrs sg off n write s = .error (.event { vector := 17, err := some 0 }) t)

/-- The translation of an address in all formats of paging (20_memory R216 to R228): not-present entries, reserved bits and
missing rights are page faults with their error code and the address for CR2; else the entry gives the address, the accessed
and dirty flags are set and no other bit of the entries (R234; 60 R1525), and the translation is cached. A cached
translation that agrees with the entries gives the address without a walk, but for the first write, which sets the dirty
flag; where it does not agree, either it or the walk is used (R235, R236). The model's choices in it: log 9. -/
def Obligations.PageTranslation : Prop := ∀ (la : Word32) (write user : Bool) (s : State), s.canonical → s.paging = true →
  let res := translate la write user s
  let cached := s.tlb.find? fun e => e.page == la.extractLsb' 12 20
  let agree (p : Word64) : Prop := s.pae = true → p = pdpteInTable s la ∧ pdpteHeld s la = p
  (cached = none →
    (∃ p d, pdpteUsed s la p ∧ Walked la write user s { s with draws := d } (foundAt s p la) res) ∧
    (∀ p, agree p → Walked la write user s s (foundAt s p la) res)) ∧
  (∀ e, cached = some e →
    (∃ p d, pdpteUsed s la p ∧
      (Walked la write user s { s with draws := d } (foundAt s p la) res ∨
        ((write = true → e.dirty = true) ∧ ByCached la write user s { s with draws := d } e res))) ∧
    (∀ p, agree p → Describes s e (foundAt s p la) →
      if write = true ∧ e.dirty = false then Walked la write user s s (foundAt s p la) res else ByCached la write user s s e res))

/-! ## The machine as a whole -/

/-- A step with no event waiting reads the bytes at CS:EIP and runs the instruction they decode to, each prefix byte having
marked the state before (60 R1541; 30_encoding R302); the thermal log bit is latched (10_state R119). The model's choices in
it: logs 4 and 5. -/
def Obligations.StepRunsDecoded : Prop := ∀ (s t : State) (i : Instr), Quiet s → Reads1 s i t → step s = latched (exec i t)

/-- What comes before an instruction at the boundary, in this order: RESET#, SMI, INIT, the debug traps of the instruction
before, NMI, a maskable interrupt, an instruction breakpoint (60 R1541); outside the shadow of STI. A chain of deliveries
that the step before did not finish goes on before all but RESET# (the model's choice, log 5). They wake a halted or waiting
processor (43 R852, R881; 70 R1771), which else stays so, but that MWAIT may end at any time; RESET#, INIT and NMI end
shutdown (70 R1770), and a start-up message the wait for one (70 R1704). What SMM entry leaves (60 R1600 to R1604; 92 D24),
and what INIT leaves (70 R1702; 10_state R190). The model's choices in it: log 7, the idle step of a halted processor and
what RESET# keeps (log 26), the messages of the processor itself (log 35), the layout of SMRAM (log 8), that INIT keeps the
task priority (log 13) and disarms MONITOR (log 2), and that a start-up message changes nothing but CS, EIP, the execution
state and the message (log 34). The interrupt the local APIC offers (60 R1580), and what an interrupt message does (60
R1590). -/
def Obligations.EventsAtBoundary : Prop :=
  ApicOffers ∧ InterruptMessages ∧
  (∀ s : State, s.pending.reset = true →
    step s = .next { State.reset with mem := s.mem, adMarks := s.adMarks, draws := s.draws, ioOut := s.ioOut }) ∧
  (∀ s : State, s.inSmm = false → ∃ t, takeSmi s = .next t ∧
    t.inSmm = true ∧ t.smmDump = some s.toCpu ∧ t.smbase = s.smbase ∧ t.pending = { s.pending with smi := false } ∧
    t.cs = { sel := s.smbase.extractLsb' 4 16, base := s.smbase, limit := 0xFFFFFFFF, typ := 3, s := true, dpl := 0, p := true
             db := false, g := false } ∧
    (∀ sg, sg ≠ .cs → t.seg sg = { t.cs with sel := 0, base := 0 }) ∧
    t.eip = 0x8000 ∧ t.eflags = 2 ∧ t.cpl = 0 ∧ t.cr0 = bitsOf s.cr0 ([1] ++ ((List.range 31).drop 4)) [] ∧ t.cr4 = 0 ∧
    t.dr7 = 0x400 ∧ t.gpr = s.gpr ∧ t.cr2 = s.cr2 ∧ t.cr3 = s.cr3 ∧ t.fpu = s.fpu ∧ t.xmm = s.xmm ∧ t.mxcsr = s.mxcsr ∧
    t.msr = s.msr ∧ t.apic = s.apic ∧ t.activity = .running ∧ t.nmiBlocked = true ∧ t.traps = 0 ∧
    (s.canonical →
      (∀ a, physRead8 { t with inSmm := false } a = physRead8 s a) ∧
      (let slot (off : Nat) : List Nat := (List.range 4).map fun k => (s.smbase + BitVec.ofNat 32 (0x8000 + off + k)).toNat
       (∀ a ∈ slot 0x7EF8 ++ slot 0x7EFC, ordinary a) →
         physReadNat t (slot 0x7EF8) = s.smbase.toNat ∧ physReadNat t (slot 0x7EFC) = Config.smmRevision.toNat))) ∧
  (∀ s : State,
    let t := s.initCore
    t.eip = 0xFFF0 ∧ t.cs = State.reset.cs ∧ (∀ sg, t.seg sg = State.reset.seg sg) ∧ t.eflags = 2 ∧
    t.cr0 = bitsOf s.cr0 [29, 30] [4] ∧ t.cr2 = 0 ∧ t.cr3 = 0 ∧ t.cr4 = 0 ∧ t.gdtr = State.reset.gdtr ∧
    t.idtr = State.reset.idtr ∧ t.ldtr = State.reset.ldtr ∧ t.tr = State.reset.tr ∧ t.gpr = State.reset.gpr ∧
    t.dr6 = 0xFFFF0FF0 ∧ t.dr7 = 0x400 ∧ t.fpu = s.fpu ∧ t.xmm = s.xmm ∧ t.mxcsr = s.mxcsr ∧ t.msr = s.msr ∧
    t.mem = s.mem ∧ t.smbase = s.smbase ∧ t.apic.irr = 0 ∧ t.apic.isr = 0 ∧ t.apic.tmr = 0 ∧ t.apic.tpr = s.apic.tpr ∧
    t.tlb = [] ∧ t.monitor.armed = false ∧ t.activity = .running ∧ t.inSmm = s.inSmm ∧ t.pending.init = false) ∧
  (∀ s d, s.pending.reset = false → s.redeliver = some d →
    step s = latched (takeEvent d.event d.pc d.savedEip { s with redeliver := none })) ∧
  ∀ s : State, s.pending.reset = false → s.redeliver = none → s.stiShadow = false → s.ssShadow = false →
  let smi := s.pending.smi && !s.inSmm
  let init := s.pending.init && !s.inSmm
  let nmi := s.pending.nmi && !s.nmiBlocked
  let irq := s.flag fIF && (s.pending.ext.isSome || s.apic.offer.isSome)
  let interrupt (v : Byte) (t : State) : Host.Outcome State Fault Refusal :=
    latched (takeEvent { vector := v, kind := .ext } s.eip s.eip t)
  let toNmi := interrupt 2 { s with pending := { s.pending with nmi := false }, nmiBlocked := true }
  let wakes := smi || init || nmi || irq || s.traps != 0
  (s.activity = .running ∨ s.activity = .halted →
    (smi = true → step s = latched (takeSmi s)) ∧
    (smi = false → init = true → step s = latched (.next s.initCore)) ∧
    (smi = false → init = false → s.flag fVM = false →
      (s.traps ≠ 0 →
        step s = latched (takeEvent { vector := 1, kind := .trap, dr6 := s.traps } s.eip s.eip { s with traps := 0 })) ∧
      (s.traps = 0 → nmi = true → step s = toNmi) ∧
      (s.traps = 0 → nmi = false → irq = true →
        (∀ v, s.pending.ext = some v → s.apic.offer = none →
          step s = interrupt v { s with pending := { s.pending with ext := none } }) ∧
        (∀ v, s.pending.ext = none → s.apic.offer = some v →
          step s = interrupt v
            { s with apic := { s.apic with irr := setBit s.apic.irr v.toNat false, isr := setBit s.apic.isr v.toNat true } })) ∧
      (s.activity = .running → s.traps = 0 → nmi = false → irq = false → s.codeBreaksBad = false → s.codeBreaks ≠ 0 →
        step s = latched (takeEvent { vector := 1, kind := .breakpoint, dr6 := s.codeBreaks } s.eip s.eip
          (s.forEvent s .breakpoint))))) ∧
  (s.activity = .halted → wakes = false → step s = latched (.next s)) ∧
  (let awake (t : State) : State := { t with activity := .running, monitor := { t.monitor with armed := false } }
   s.activity = .mwait →
    (wakes = true → step s = step (awake s)) ∧
    (wakes = false → ∃ d, step s = latched (.next { s with draws := d }) ∨ step s = latched (.next (awake { s with draws := d })))) ∧
  (s.activity = .shutdown →
    (init = true → step s = latched (.next s.initCore)) ∧
    (init = false → nmi = true → step s = toNmi) ∧
    (init = false → nmi = false → step s = .fault .shutdown)) ∧
  (s.activity = .waitForSipi →
    (init = true → step s = latched (.next s.initCore)) ∧
    (∀ v, init = false → s.pending.sipi = some v →
      step s = latched (.next { s with
        activity := .running, eip := 0, pending := { s.pending with sipi := none }
        cs := { s.cs with sel := v ++ 0#8, base := (v ++ 0#8).setWidth 32 <<< 4 } })) ∧
    (init = false → s.pending.sipi = none → step s = .fault .waitForSipi))

/-- The state after reset (10_state R190): the values the spec gives; memory lists nothing; no event waits. Reset has the
canonical memory and the fixed flags. The model's choices in it: logs 1 and 2, the x87 control, status and tag words, where
10_state R190 and 92 D3 differ (log 40), and the signature in EDX (log 11). -/
def Obligations.ResetState : Prop :=
  (let s := State.reset
   s.eip = 0xFFF0 ∧ s.cs.sel = 0xF000 ∧ s.cs.base = 0xFFFF0000 ∧ s.cs.limit = 0xFFFF ∧ s.eflags = 2 ∧ s.cr0 = 0x60000010 ∧
   (∀ sg, sg ≠ .cs → (s.seg sg).sel = 0 ∧ (s.seg sg).base = 0 ∧ (s.seg sg).limit = 0xFFFF) ∧
   s.cr2 = 0 ∧ s.cr3 = 0 ∧ s.cr4 = 0 ∧ s.gdtr = { base := 0, limit := 0xFFFF } ∧ s.idtr = { base := 0, limit := 0xFFFF } ∧
   s.dr6 = 0xFFFF0FF0 ∧ s.dr7 = 0x400 ∧ s.fpu.cw = 0x40 ∧ s.fpu.sw = 0 ∧ s.fpu.tw = 0x5555 ∧ s.mxcsr = 0x1F80 ∧
   (∀ r, s.reg32 r = if r = rDX then Config.signature else 0) ∧ (∀ r, s.xmmReg r = 0) ∧ s.cpl = 0 ∧ s.pe = false ∧
   s.smbase = 0x30000 ∧ s.activity = .running ∧ s.mem = [] ∧ Quiet s) ∧
  (State.reset.canonical ∧ State.reset.flagsFixed)

/-- Every step keeps the canonical form of memory (20_memory R200). The model's choices in it: log 1. -/
def Obligations.MemoryStaysCanonical : Prop := ∀ s t : State, s.canonical → step s = .next t → t.canonical

/-- Every step keeps the fixed bits of EFLAGS, in the processor and in what SMM entry saved (10_state R48, R53). -/
def Obligations.FixedFlagsStay : Prop := ∀ s t : State, s.flagsFixed → step s = .next t → t.flagsFixed

/-! ## Encoding (30_encoding) -/

/-- Decoding an encoded well-formed instruction gives it back with its length, whatever bytes follow; but for the three
prefix bytes that can begin another instruction's opcode (30_encoding R316). The model's choices in it: log 28. -/
def Obligations.DecodeOfEncode : Prop := ∀ (i : Instr) (os32 as32 : Bool) (rest : List Byte),
  i.wf = true → i.fits os32 as32 = true → i ∉ [.repne, .rep, .opSizeOverride] →
  decode { os32, as32 } (encode i ++ rest) = .ok i (encode i).length

/-- A few words of the encoding tables (30_encoding; the words are written out from the rows of the opcode table). -/
def Obligations.DecodesTableWords : Prop :=
  let d (bs : List Byte) : DecodeResult := decode { os32 := true, as32 := true } bs
  d [0x01, 0xD8] = .ok (.add (.rmReg true (.reg 0) 3)) 2 ∧
  d [0x81, 0x6B, 0x08, 0x78, 0x56, 0x34, 0x12] = .ok (.sub (.rmImm false true (.mem (.base32 3 (.d8 8))) (.i32 0x12345678))) 7 ∧
  d [0x8B, 0x84, 0x8E, 0x00, 0x01, 0x00, 0x00] = .ok (.mov (.regRm true 0 (.mem (.sib 2 1 6 (.d32 0x100))))) 7 ∧
  d [0x0F, 0x84, 0xFC, 0xFF, 0xFF, 0xFF] = .ok (.jcc 4 (.i32 0xFFFFFFFC)) 6 ∧
  d [0xCF] = .ok .iret 1 ∧ d [0x0F, 0x22, 0xD8] = .ok (.movToCr 3 0) 3 ∧ d [0xD9, 0xC1] = .ok (.fld (.st 1)) 2 ∧
  d [0x0F, 0xFC, 0xCA] = .ok (.paddb (.mm 1 (.reg 2))) 3 ∧ d [0x66, 0x0F, 0xFC, 0xCA] = .ok (.paddb (.xmm 1 (.reg 2))) 4 ∧
  d [0xF3, 0x0F, 0x58, 0xC1] = .ok (.addss 0 (.reg 1)) 4 ∧ d [0xF2, 0x0F, 0x7D, 0xC1] = .ok (.hsubps 0 (.reg 1)) 4

/-- UD2 and the Group 10 opcode raise #UD with the saved EIP of the instruction and no error code, and change nothing else
(43 R900); what the instruction before left for one instruction is spent. -/
def Obligations.UndefinedInstruction : Prop :=
  (∀ os32 as32, decode { os32, as32 } [0x0F, 0x0B] = .ok .ud2 2 ∧ decode { os32, as32 } [0x0F, 0xB9, 0xC0] = .ok .group10 3) ∧
  ∀ s : State,
    let t := { s with ssShadow := false, stiShadow := false, lastIo := none, repBusy := false, cur := .none }
    exec .ud2 s = takeEvent { vector := 6, kind := .fault, err := none } s.eip s.eip t ∧
    exec .group10 s = takeEvent { vector := 6, kind := .fault, err := none } s.eip s.eip t

/-- PAUSE does what NOP does (20_memory R256). -/
def Obligations.PauseActsAsNop : Prop :=
  (∀ os32 as32 rest, decode { os32, as32 } (0xF3 :: 0x90 :: rest) = .ok .pause 2) ∧ ∀ s, exec .pause s = exec .nop s

end
end

