-- ==== Sys2Proof/Laws/Approx.lean ====
section
/-! SUPPORT. The reciprocal approximations keep the error bound of 46 R1149: what rounding to single precision can do, and
that 1/x and 1/sqrt x rounded are within the bound. -/
namespace Sys2Proof.Machine

/-! ## Encoded single-precision numbers -/

/-- The fields of an encoded single-precision number. -/
theorem single_fields {n : Bool} {X : Nat} (hX : X < 255) (sig : Nat) :
    let y := fpOf .single n { exp := X, sig }
    fpNeg .single y = n ∧ fpExp .single y = X ∧ fpFrac .single y = sig % 2 ^ 23 := by
  have hl : Nat.log2 256 = 8 := by decide +kernel
  have e1 : Fmt.single.special = 255 := by decide
  have e2 : Fmt.single.p = 24 := rfl
  simp only [fpOf, fpNeg, fpExp, fpFrac, e1, e2, Nat.reduceAdd, Nat.reduceSub, Nat.reducePow, Nat.reduceMul, hl]
  rw [Nat.testBit_eq_decide_div_mod_eq]
  refine ⟨?_, ?_, ?_⟩ <;> cases n <;> simp <;> omega

/-- The value of an encoded normal number. -/
theorem single_exact {n : Bool} {X sig : Nat} (h0 : 1 ≤ X) (hX : X < 255) (h1 : 2 ^ 23 ≤ sig) (h2 : sig < 2 ^ 24) :
    let y := fpOf .single n { exp := X, sig }
    sFinite y = true ∧ fpExact .single y = { neg := n, mant := sig, exp := (X : Int) - 150 } := by
  obtain ⟨a, b, c⟩ := single_fields (n := n) hX sig
  refine ⟨?_, ?_⟩
  · have e1 : Fmt.single.special = 255 := by decide
    have : fpCls .single (fpOf .single n { exp := X, sig }) = .normal := by
      unfold fpCls
      rw [b, e1, if_neg (by omega), if_pos (by omega)]
    simp [sFinite, this]
  · have e1 : Fmt.single.emax = 127 := rfl
    have e2 : Fmt.single.p = 24 := rfl
    simp only [fpExact, a, b, c, e1, e2]
    rw [if_neg (by omega), show sig % 2 ^ 23 + 2 ^ (24 - 1) = sig by omega]
    congr 1; omega

/-- The value of a normal number. -/
theorem single_normal {v : Nat} (h : fpCls .single v = .normal) :
    ∃ m E : Nat, 2 ^ 23 ≤ m ∧ m < 2 ^ 24 ∧ 1 ≤ E ∧ E ≤ 254 ∧
      fpExact .single v = { neg := fpNeg .single v, mant := m, exp := (E : Int) - 150 } := by
  have e1 : Fmt.single.special = 255 := by decide
  have e2 : Fmt.single.p = 24 := rfl
  have e3 : Fmt.single.emax = 127 := rfl
  have hE : fpExp .single v ≠ 0 ∧ fpExp .single v < 255 := by
    unfold fpCls at h
    rw [e1] at h
    split at h
    · split at h <;> cases h
    · split at h
      · exact ⟨‹_›, ‹_›⟩
      · split at h
        · cases h
        · split at h <;> cases h
  have hf : fpFrac .single v < 2 ^ 23 := Nat.mod_lt _ (by decide)
  refine ⟨fpFrac .single v + 2 ^ 23, fpExp .single v, by omega, by omega, by omega, by omega, ?_⟩
  simp only [fpExact, e2, e3]
  rw [if_neg hE.1]
  congr 1
  omega

/-! ## Rounding -/

/-- Rounding is off by at most one unit of the last place kept. -/
theorem roundAt_off (x : Exact) (rc : BitVec 2) {e : Int} {k : Nat} (hk : e = x.exp + k) :
    let q := (x.roundAt rc e).q
    q * 2 ^ k ≤ x.mant + 2 ^ k ∧ x.mant ≤ q * 2 ^ k + 2 ^ k ∧ (q = x.mant / 2 ^ k ∨ q = x.mant / 2 ^ k + 1) := by
  have k1 : (e - x.exp).toNat = k := by omega
  have k2 : (x.exp - e).toNat = 0 := by omega
  have d1 := Nat.div_add_mod x.mant (2 ^ k)
  have d2 := Nat.mod_lt x.mant (Nat.two_pow_pos k)
  simp only [Exact.roundAt, k1, k2, Nat.pow_zero, Nat.mul_one]
  generalize x.mant / 2 ^ k = q0 at *
  generalize x.mant % 2 ^ k = r at *
  generalize 2 ^ k = p at *
  rw [Nat.mul_comm p q0] at d1
  generalize roundsUp _ _ _ _ = u
  have e := Nat.succ_mul q0 p
  cases u <;> simp only [Nat.succ_eq_add_one] at e <;> simp <;> omega

/-- Rounding to 24 places is off by less than one unit of the last. -/
theorem roundAt_near (x : Exact) {L : Nat} (hL : Nat.log2 x.mant = L) (h : 23 ≤ L) :
    let q := (x.roundAt 0 (x.top - 23)).q
    2 ^ 23 ≤ q ∧ q ≤ 2 ^ 24 ∧ q * 2 ^ (L - 23) ≤ x.mant + 2 ^ (L - 23) ∧ x.mant ≤ q * 2 ^ (L - 23) + 2 ^ (L - 23) := by
  have hn : x.mant ≠ 0 := by rintro h0; simp [h0] at hL; omega
  have lo : 2 ^ L ≤ x.mant := hL ▸ Nat.log2_self_le hn
  have hi : x.mant < 2 ^ (L + 1) := hL ▸ Nat.lt_log2_self
  have p1 : 2 ^ L = 2 ^ 23 * 2 ^ (L - 23) := by rw [← Nat.pow_add]; congr 1; omega
  have p2 : 2 ^ (L + 1) = 2 ^ 24 * 2 ^ (L - 23) := by rw [← Nat.pow_add]; congr 1; omega
  have kp : 0 < 2 ^ (L - 23) := Nat.two_pow_pos _
  have b1 : 2 ^ 23 ≤ x.mant / 2 ^ (L - 23) := (Nat.le_div_iff_mul_le kp).2 (p1 ▸ lo)
  have b2 : x.mant / 2 ^ (L - 23) < 2 ^ 24 := (Nat.div_lt_iff_lt_mul kp).2 (p2 ▸ hi)
  obtain ⟨c1, c2, c3⟩ := roundAt_off x 0 (e := x.top - 23) (k := L - 23) (by simp only [Exact.top, hL]; omega)
  exact ⟨by omega, by omega, c1, c2⟩

/-- A magnitude whose leading bit is at an exponent from -126 to 126, rounded to single precision. -/
theorem sRound_near (x : Exact) {L : Nat} (hL : Nat.log2 x.mant = L) (h : 23 ≤ L) (lo : -126 ≤ x.top) (hi : x.top ≤ 126) :
    ∃ q : Nat, q * 2 ^ (L - 23) ≤ x.mant + 2 ^ (L - 23) ∧ x.mant ≤ q * 2 ^ (L - 23) + 2 ^ (L - 23) ∧
      let y := (sRound 0x1F80 .single (.fin x)).val
      sFinite y = true ∧
        (fpExact .single y = { neg := x.neg, mant := q, exp := x.top - 23 } ∨
          ∃ half, q = 2 * half ∧ fpExact .single y = { neg := x.neg, mant := half, exp := x.top - 22 }) := by
  obtain ⟨b1, b2, b3, b4⟩ := roundAt_near x hL h
  refine ⟨_, b3, b4, ?_⟩
  have f1 : sseFz 0x1F80 = false := by decide
  have f2 : sseRc 0x1F80 = 0 := by decide
  have f3 : Fmt.single.p = 24 := rfl
  have f4 : Fmt.single.emax = 127 := rfl
  have f5 : Fmt.single.emin = -126 := rfl
  have hp : (sRound 0x1F80 .single (.fin x)).val =
      fpOf .single x.neg (Fmt.single.pack (x.roundAt 0 (x.top - 23)).q (x.top - 23)) := by
    simp only [sRound, f1, f2, f3, Bool.false_and, Bool.false_eq_true, if_false, Fmt.round]
    have e : x.top - ((24 : Nat) - 1 : Int) = x.top - 23 := by omega
    rw [e, f4, f5, if_neg (by simp; split <;> omega), if_neg (by simp; omega)]
  dsimp only
  rw [hp]
  generalize (x.roundAt 0 (x.top - 23)).q = q at *
  have hq0 : q ≠ 0 := by omega
  by_cases hq : q = 2 ^ 24
  · subst hq
    have hl : Nat.log2 (2 ^ 24) = 24 := by decide +kernel
    have hpk : Fmt.single.pack (2 ^ 24) (x.top - 23) = { exp := (x.top + 128).toNat, sig := 2 ^ 23 } := by
      simp only [Fmt.pack, hl, f3, f4, f5]
      rw [if_neg (by decide), if_neg (by omega)]
      congr 1
      omega
    rw [hpk]
    obtain ⟨a, b⟩ := single_exact (n := x.neg) (X := (x.top + 128).toNat) (sig := 2 ^ 23) (by omega) (by omega) (by omega) (by omega)
    exact ⟨a, .inr ⟨2 ^ 23, rfl, b.trans (by congr 1; omega)⟩⟩
  · have hl : Nat.log2 q = 23 := by
      rw [Nat.log2_eq_iff hq0]; omega
    have hpk : Fmt.single.pack q (x.top - 23) = { exp := (x.top + 127).toNat, sig := q } := by
      simp only [Fmt.pack, hl, f3, f4, f5]
      rw [if_neg hq0, if_neg (by omega)]
      simp
    rw [hpk]
    obtain ⟨a, b⟩ := single_exact (n := x.neg) (X := (x.top + 127).toNat) (sig := q) (by omega) (by omega) b1 (by omega)
    exact ⟨a, .inl (b.trans (by congr 1; omega))⟩

/-- A magnitude whose leading bit is at -127 or -128, rounded to single precision: a multiple of 2^-149. -/
theorem sRound_tiny (x : Exact) {L k : Nat} (hL : Nat.log2 x.mant = L) (h : 25 ≤ L) (hk : x.exp + (k : Int) = -149)
    (lo : -128 ≤ x.top) (hi : x.top ≤ -127) :
    ∃ q : Nat, q * 2 ^ k ≤ x.mant + 2 ^ k ∧ x.mant ≤ q * 2 ^ k + 2 ^ k ∧
      let y := (sRound 0x1F80 .single (.fin x)).val
      sFinite y = true ∧ fpExact .single y = { neg := x.neg, mant := q, exp := -149 } := by
  obtain ⟨b3, b4, b5⟩ := roundAt_off x 0 (e := -149) (k := k) (by omega)
  refine ⟨_, b3, b4, ?_⟩
  have hn : x.mant ≠ 0 := by rintro h0; simp [h0] at hL; omega
  have f1 : sseFz 0x1F80 = false := by decide
  have f2 : sseRc 0x1F80 = 0 := by decide
  have f3 : Fmt.single.p = 24 := rfl
  have f4 : Fmt.single.emax = 127 := rfl
  have f5 : Fmt.single.emin = -126 := rfl
  have f6 : (sseMasks 0x1F80 &&& xUE != 0) = true := by decide
  have f7 : Fmt.single.special = 255 := by decide
  have hp : (sRound 0x1F80 .single (.fin x)).val =
      fpOf .single x.neg (Fmt.single.pack (x.roundAt 0 (-149)).q (-149)) := by
    simp only [sRound, f1, f2, f3, Bool.false_and, Bool.false_eq_true, if_false, Fmt.round]
    rw [f4, f5, f6, if_neg (by simp; split <;> omega), if_pos (by simp; omega)]
    simp
  have lt : x.top = x.exp + L := by simp only [Exact.top, hL]
  have lo' : 2 ^ L ≤ x.mant := hL ▸ Nat.log2_self_le hn
  have hi' : x.mant < 2 ^ (L + 1) := hL ▸ Nat.lt_log2_self
  have kp : 0 < 2 ^ k := Nat.two_pow_pos _
  have c1 : 2 ^ 21 ≤ x.mant / 2 ^ k := by
    refine (Nat.le_div_iff_mul_le kp).2 (Nat.le_trans ?_ lo')
    rw [← Nat.pow_add]; exact Nat.pow_le_pow_right (by omega) (by omega)
  have c2 : x.mant / 2 ^ k < 2 ^ 23 := by
    refine (Nat.div_lt_iff_lt_mul kp).2 (Nat.lt_of_lt_of_le hi' ?_)
    rw [← Nat.pow_add]; exact Nat.pow_le_pow_right (by omega) (by omega)
  dsimp only
  rw [hp]
  generalize (x.roundAt 0 (-149)).q = q at *
  have hq0 : q ≠ 0 := by omega
  by_cases hq : q = 2 ^ 23
  · subst hq
    have hl : Nat.log2 (2 ^ 23) = 23 := by decide +kernel
    have hpk : Fmt.single.pack (2 ^ 23) (-149) = { exp := 1, sig := 2 ^ 23 } := by decide +kernel
    rw [hpk]
    obtain ⟨a, b⟩ := single_exact (n := x.neg) (X := 1) (sig := 2 ^ 23) (by omega) (by omega) (by omega) (by omega)
    exact ⟨a, b⟩
  · have hl : Nat.log2 q < 23 := by
      rw [Nat.log2_lt hq0]; omega
    have hpk : Fmt.single.pack q (-149) = { exp := 0, sig := q } := by
      simp only [Fmt.pack, f3, f4, f5]
      rw [if_neg hq0, if_pos (by omega)]
      simp
    rw [hpk]
    obtain ⟨a, b, c⟩ := single_fields (n := x.neg) (X := 0) (by omega) q
    rw [Nat.mod_eq_of_lt (by omega)] at c
    refine ⟨?_, ?_⟩
    · have : fpCls .single (fpOf .single x.neg { exp := 0, sig := q }) = .denormal := by
        unfold fpCls
        rw [b, c, if_pos rfl, if_neg hq0]
      simp [sFinite, this]
    · simp only [fpExact, a, b, c, f3, f4]
      simp

/-! ## The bound -/

/-- A positive value at 2^-26-c between the bounds. -/
theorem within_of {p : Exact} {lo hi c : Nat} (hn : p.neg = false) (he : p.exp = -26 - (c : Int))
    (h1 : lo * 2 ^ c ≤ p.mant) (h2 : p.mant ≤ hi * 2 ^ c) : p.within lo hi = true := by
  have m1 : (-26 : Int) - p.exp = c := by omega
  have m2 : min (-26 : Int) p.exp = p.exp := by omega
  have m3 : min p.exp (-26 : Int) = p.exp := by omega
  have side (a b : Int) : (compare a b != .gt) = true ↔ a ≤ b := by
    rw [bne_iff_ne, Ne, Int.compare_eq_gt, Int.not_lt]
  simp only [Exact.within, exactCmp, m2, m3, m1, hn, Bool.and_eq_true]
  constructor <;> rw [side] <;> simp <;> exact_mod_cast ‹_›

/-- Bounds in units half as large. -/
theorem halve {lo hi c a : Nat} (h1 : lo * 2 ^ (c + 1) ≤ 2 * a) (h2 : 2 * a ≤ hi * 2 ^ (c + 1)) :
    lo * 2 ^ c ≤ a ∧ a ≤ hi * 2 ^ c := by
  rw [Nat.pow_succ, ← Nat.mul_assoc] at h1 h2
  omega

/-- The product of a number and its rounded reciprocal. -/
theorem rcp_product {q m N k : Nat} (hk : k = 85 ∨ k = 86 ∨ k = 87) (b1 : q * 2 ^ k ≤ N + 2 ^ k) (b2 : N ≤ q * 2 ^ k + 2 ^ k)
    (hm : m < 2 ^ 24) (d1 : m * N ≤ 2 ^ 132) (d2 : 2 ^ 132 < m * N + m) :
    8189 * 2 ^ 13 * 2 ^ (106 - k) ≤ q * m ∧ q * m ≤ 8195 * 2 ^ 13 * 2 ^ (106 - k) := by
  have c1 := Nat.mul_le_mul_left m b1
  have c2 := Nat.mul_le_mul_left m b2
  rw [Nat.mul_add, ← Nat.mul_assoc, Nat.mul_comm m q] at c1 c2
  generalize q * m = A at *
  generalize m * N = B at *
  obtain rfl | rfl | rfl := hk <;> omega

/-- 1/x rounded to single precision keeps the bound of R1149. -/
theorem rcpClose_exact {n : Bool} {m E : Nat} (h1 : 2 ^ 23 ≤ m) (h2 : m < 2 ^ 24) (h3 : 1 ≤ E) (h4 : E ≤ 254) :
    let x : Exact := { neg := n, mant := m, exp := (E : Int) - 150 }
    rcpClose x (sRound 0x1F80 .single (.fin (Exact.one.div x))).val = true := by
  intro x
  have dm := Nat.div_add_mod (2 ^ 132) m
  have dl := Nat.mod_lt (2 ^ 132) (show m > 0 by omega)
  generalize hz : Exact.one.div x = z
  have zm : z.mant = 2 ^ 132 / m := by subst hz; simp [Exact.div, Exact.one, x]
  have ze : z.exp = 18 - (E : Int) := by subst hz; simp [Exact.div, Exact.one, x]; omega
  have zn : z.neg = n := by subst hz; simp [Exact.div, Exact.one, x]
  have hN : 2 ^ 108 ≤ 2 ^ 132 / m := (Nat.le_div_iff_mul_le (by omega)).2 (by omega)
  have hN' : 2 ^ 132 / m ≤ 2 ^ 109 := Nat.div_le_of_le_mul (by omega)
  rw [← zm] at dm hN hN'
  have hn0 : z.mant ≠ 0 := by omega
  obtain ⟨L, hL, hL'⟩ : ∃ L, Nat.log2 z.mant = L ∧ (L = 108 ∨ L = 109) := by
    refine ⟨_, rfl, ?_⟩
    have := (Nat.le_log2 hn0).2 hN
    have := (Nat.log2_lt (k := 110) hn0).2 (by omega)
    omega
  have ht : z.top = 18 - (E : Int) + L := by simp only [Exact.top, ze, hL]
  simp only [rcpClose, Bool.and_eq_true]
  by_cases hE : z.top ≤ -127
  · obtain ⟨q, b1, b2, fin, val⟩ := sRound_tiny z (L := L) (k := E - 167) hL (by omega) (by omega) (by omega) hE
    obtain ⟨p1, p2⟩ := rcp_product (by omega) b1 b2 h2 (by omega) (by omega)
    refine ⟨fin, ?_⟩
    rw [val]
    exact within_of (c := 106 - (E - 167)) (by simp [Exact.mul, zn, x]) (by simp only [Exact.mul, x]; omega) p1 p2
  · obtain ⟨q, b1, b2, fin, val⟩ := sRound_near z hL (by omega) (by omega) (by omega)
    obtain ⟨p1, p2⟩ := rcp_product (by omega) b1 b2 h2 (by omega) (by omega)
    refine ⟨fin, ?_⟩
    rcases val with val | ⟨half, hq, val⟩ <;> rw [val]
    · exact within_of (c := 106 - (L - 23)) (by simp [Exact.mul, zn, x]) (by simp only [Exact.mul, x]; omega) p1 p2
    · rw [show 106 - (L - 23) = 105 - (L - 23) + 1 by omega, hq, Nat.mul_assoc 2] at p1 p2
      obtain ⟨p1, p2⟩ := halve p1 p2
      exact within_of (c := 105 - (L - 23)) (by simp [Exact.mul, zn, x]) (by simp only [Exact.mul, x]; omega) p1 p2

/-- The bitwise square root is the largest whole number whose square is not above n. -/
theorem isqrt_spec (n k r : Nat) (lo : r * r ≤ n) (hi : n < (r + 2 ^ k) * (r + 2 ^ k)) :
    isqrt n k r * isqrt n k r ≤ n ∧ n < (isqrt n k r + 1) * (isqrt n k r + 1) := by
  induction k generalizing r with
  | zero => exact ⟨lo, hi⟩
  | succ k ih =>
    have e : r + 2 ^ k + 2 ^ k = r + 2 ^ (k + 1) := by rw [Nat.pow_succ]; omega
    simp only [isqrt]
    split
    · exact ih _ ‹_› (e ▸ hi)
    · exact ih _ lo (by omega)

/-- The product of a number and the square of its rounded inverse square root. -/
theorem rsqrt_product {q m N L r s : Nat} (hL : L = 49 ∨ L = 50 ∨ L = 51) (hs : s = 140 ∨ s = 141)
    (b1 : q * 2 ^ (L - 23) ≤ N + 2 ^ (L - 23)) (b2 : N ≤ q * 2 ^ (L - 23) + 2 ^ (L - 23))
    (l1 : 2 ^ L ≤ N) (l2 : N < 2 ^ (L + 1)) (r1 : r * r ≤ m * 2 ^ s) (r2 : m * 2 ^ s < (r + 1) * (r + 1))
    (d1 : r * N ≤ 2 ^ 132) (d2 : 2 ^ 132 < r * N + r) :
    8189 * 8189 * 2 ^ (284 - s - 2 * L) ≤ q * q * m ∧ q * q * m ≤ 8195 * 8195 * 2 ^ (284 - s - 2 * L) := by
  -- p = q 2^(L-23) is near N, so p r is near 2^132
  generalize hp : q * 2 ^ (L - 23) = p at *
  have c0 := Nat.mul_le_mul_left r l1
  have c1 := Nat.mul_le_mul_left r b1
  have c2 := Nat.mul_le_mul_left r b2
  rw [Nat.mul_add] at c1 c2
  have hi : r * p + p ≤ 2 ^ 132 + 2 ^ 110 := by
    obtain rfl | rfl | rfl := hL <;> omega
  have lo : 2 ^ 132 ≤ r * p + 2 ^ 110 := by
    obtain rfl | rfl | rfl := hL <;> omega
  have sq : p * p * (m * 2 ^ s) = q * q * m * (2 ^ (L - 23) * 2 ^ (L - 23) * 2 ^ s) := by rw [← hp]; ac_rfl
  have hi2 : p * p * (m * 2 ^ s) ≤ (2 ^ 132 + 2 ^ 110) * (2 ^ 132 + 2 ^ 110) :=
    calc p * p * (m * 2 ^ s) ≤ p * p * ((r + 1) * (r + 1)) := Nat.mul_le_mul_left _ (by omega)
      _ = (r * p + p) * (r * p + p) := by rw [show r * p + p = (r + 1) * p by rw [Nat.succ_mul]]; ac_rfl
      _ ≤ _ := Nat.mul_le_mul hi hi
  have lo2 : (2 ^ 132 - 2 ^ 110) * (2 ^ 132 - 2 ^ 110) ≤ p * p * (m * 2 ^ s) :=
    calc _ ≤ (r * p) * (r * p) := Nat.mul_le_mul (by omega) (by omega)
      _ = p * p * (r * r) := by ac_rfl
      _ ≤ _ := Nat.mul_le_mul_left _ r1
  rw [sq] at hi2 lo2
  generalize q * q * m = A at *
  obtain rfl | rfl | rfl := hL <;> obtain rfl | rfl := hs <;> omega

/-- The computed square root of a normal number m 2^(E-150): r 2^t with r the whole square root of m 2^s. -/
theorem sqrt_near {m E : Nat} (h1 : 2 ^ 23 ≤ m) (h2 : m < 2 ^ 24) :
    ∃ (r s : Nat) (t : Int), (s = 140 ∨ s = 141) ∧ 2 * t = (E : Int) - 150 - s ∧ 2 ^ 81 ≤ r ∧ r < 2 ^ 83 ∧
      r * r ≤ m * 2 ^ s ∧ m * 2 ^ s < (r + 1) * (r + 1) ∧
      ∃ sticky, ({ neg := false, mant := m, exp := (E : Int) - 150 } : Exact).sqrt = { neg := false, mant := r, exp := t, sticky } := by
  obtain ⟨s, hs, par⟩ : ∃ s : Nat, 140 + (((E : Int) - 150) % 2).toNat = s ∧ (s = 140 ∨ s = 141) := ⟨_, rfl, by omega⟩
  obtain ⟨t, ht⟩ : ∃ t : Int, ((E : Int) - 150 - s) / 2 = t := ⟨_, rfl⟩
  obtain ⟨r1, r2⟩ := isqrt_spec (m * 2 ^ s) 106 0 (by omega) (by obtain rfl | rfl := par <;> omega)
  simp only [Exact.sqrt, hs, ht]
  generalize isqrt (m * 2 ^ s) 106 0 = r at *
  refine ⟨r, s, t, par, by omega, ?_, ?_, r1, r2, _, rfl⟩
  · rcases Nat.lt_or_ge r (2 ^ 81) with h | h
    · have := Nat.mul_le_mul (show r + 1 ≤ 2 ^ 81 by omega) (show r + 1 ≤ 2 ^ 81 by omega)
      obtain rfl | rfl := par <;> omega
    · exact h
  · rcases Nat.lt_or_ge r (2 ^ 83) with h | h
    · exact h
    · have := Nat.mul_le_mul h h
      obtain rfl | rfl := par <;> omega

/-- 1/sqrt x rounded to single precision keeps the bound of R1149. -/
theorem rsqrtClose_exact {m E : Nat} (h1 : 2 ^ 23 ≤ m) (h2 : m < 2 ^ 24) (h3 : 1 ≤ E) (h4 : E ≤ 254) :
    let x : Exact := { neg := false, mant := m, exp := (E : Int) - 150 }
    rsqrtClose x (sRound 0x1F80 .single (.fin (Exact.one.div x.sqrt))).val = true := by
  intro x
  obtain ⟨r, s, t, par, ht2, rlo, rhi, r1, r2, sticky, hsq⟩ := sqrt_near (E := E) h1 h2
  replace hsq : x.sqrt = _ := hsq
  have dm := Nat.div_add_mod (2 ^ 132) r
  have dl := Nat.mod_lt (2 ^ 132) (show r > 0 by omega)
  generalize hz : Exact.one.div x.sqrt = z
  have zm : z.mant = 2 ^ 132 / r := by subst hz; simp [Exact.div, Exact.one, hsq]
  have ze : z.exp = -t - 132 := by subst hz; simp [Exact.div, Exact.one, hsq]
  have zn : z.neg = false := by subst hz; simp [Exact.div, Exact.one, hsq]
  have hN : 2 ^ 49 ≤ 2 ^ 132 / r := (Nat.le_div_iff_mul_le (by omega)).2 (by omega)
  have hN' : 2 ^ 132 / r ≤ 2 ^ 51 := Nat.div_le_of_le_mul (by omega)
  rw [← zm] at dm hN hN'
  have hn0 : z.mant ≠ 0 := by omega
  obtain ⟨L, hL, hL'⟩ : ∃ L, Nat.log2 z.mant = L ∧ (L = 49 ∨ L = 50 ∨ L = 51) := by
    refine ⟨_, rfl, ?_⟩
    have := (Nat.le_log2 hn0).2 hN
    have := (Nat.log2_lt (k := 52) hn0).2 (by omega)
    omega
  have top : z.top = -t - 132 + L := by simp only [Exact.top, ze, hL]
  obtain ⟨q, b1, b2, fin, val⟩ := sRound_near z hL (by omega) (by omega) (by omega)
  obtain ⟨p1, p2⟩ := rsqrt_product hL' par b1 b2 (hL ▸ Nat.log2_self_le hn0) (hL ▸ Nat.lt_log2_self) r1 r2 (by omega) (by omega)
  simp only [rsqrtClose, Bool.and_eq_true]
  rcases val with val | ⟨half, hq, val⟩ <;> rw [val] <;> refine ⟨⟨fin, by simp [zn]⟩, ?_⟩
  · exact within_of (c := 284 - s - 2 * L) (by simp [Exact.mul, x]) (by simp only [Exact.mul, x]; omega) p1 p2
  · rw [show 284 - s - 2 * L = 282 - s - 2 * L + 1 + 1 by omega, hq,
      show 2 * half * (2 * half) * m = 2 * (2 * (half * half * m)) by rw [Nat.mul_mul_mul_comm]; simp only [Nat.mul_assoc]] at p1 p2
    obtain ⟨p1, p2⟩ := halve p1 p2
    obtain ⟨p1, p2⟩ := halve p1 p2
    exact within_of (c := 282 - s - 2 * L) (by simp [Exact.mul, x]) (by simp only [Exact.mul, x]; omega) p1 p2

/-! ## What the approximations give -/

/-- The rational value of an exact number whose sticky bit is clear. -/
def Exact.rat (x : Exact) : ℚ := (if x.neg then -1 else 1) * x.mant * (2 : ℚ) ^ x.exp

theorem Exact.rat_mul (x y : Exact) : (x.mul y).rat = x.rat * y.rat := by
  have h : (2 : ℚ) ^ (x.exp + y.exp) = 2 ^ x.exp * 2 ^ y.exp := zpow_add₀ (by norm_num) _ _
  simp only [Exact.rat, Exact.mul, h, Nat.cast_mul]
  rcases x with ⟨nx, mx, ex, sx⟩
  rcases y with ⟨ny, my, ey, sy⟩
  cases nx <;> cases ny <;> simp <;> ring

/-- What `Exact.within` says, in rational numbers. -/
theorem within_rat {p : Exact} {lo hi : Nat} (h : p.within lo hi = true) :
    lo * (2 : ℚ) ^ (-26 : ℤ) ≤ p.rat ∧ p.rat ≤ hi * (2 : ℚ) ^ (-26 : ℤ) := by
  have scale (n : Nat) (a e : Int) (he : e ≤ a) : ((n * 2 ^ (a - e).toNat : Nat) : ℚ) * 2 ^ e = n * 2 ^ a := by
    rw [Nat.cast_mul, Nat.cast_pow, Nat.cast_ofNat, mul_assoc, ← zpow_natCast, ← zpow_add₀ (by norm_num)]
    congr 2
    omega
  have side (a b : Int) : (compare a b != .gt) = true ↔ a ≤ b := by
    rw [bne_iff_ne, Ne, Int.compare_eq_gt, Int.not_lt]
  simp only [Exact.within, exactCmp, Bool.and_eq_true, side] at h
  obtain ⟨h1, h2⟩ := h
  rw [min_comm p.exp] at h2
  generalize he : min (-26 : Int) p.exp = e at *
  have s1 (n : Nat) := scale n (-26) e (by omega)
  have s2 := scale p.mant p.exp e (by omega)
  have hp : (0 : ℚ) ≤ 2 ^ e := by positivity
  have g1 : ((if p.neg then -1 else 1) * ((p.mant * 2 ^ (p.exp - e).toNat : Nat) : ℚ)) * 2 ^ e = p.rat := by
    rw [mul_assoc, s2, Exact.rat, mul_assoc]
  constructor
  · rw [← s1, ← g1]
    refine mul_le_mul_of_nonneg_right ?_ hp
    have := (Int.cast_le (R := ℚ)).2 h1
    simpa using this
  · rw [← s1, ← g1]
    refine mul_le_mul_of_nonneg_right ?_ hp
    have := (Int.cast_le (R := ℚ)).2 h2
    simpa using this

/-- `rcpClose` in rational numbers. -/
theorem rcpClose_rat {x : Exact} {y : Nat} (h : rcpClose x y = true) :
    |(fpExact .single y).rat * x.rat - 1| ≤ 3 / 2 ^ 13 := by
  simp only [rcpClose, Bool.and_eq_true] at h
  obtain ⟨h1, h2⟩ := within_rat h.2
  rw [Exact.rat_mul] at h1 h2
  rw [abs_le]
  norm_num at h1 h2 ⊢
  constructor <;> linarith

/-- `rsqrtClose` in rational numbers: y is positive, and y y x lies between the squares of 1 - 3/2^13 and 1 + 3/2^13. -/
theorem rsqrtClose_rat {x : Exact} {y : Nat} (h : rsqrtClose x y = true) :
    0 < (fpExact .single y).rat ∧ (1 - 3 / 2 ^ 13) ^ 2 ≤ (fpExact .single y).rat ^ 2 * x.rat ∧
      (fpExact .single y).rat ^ 2 * x.rat ≤ (1 + 3 / 2 ^ 13) ^ 2 := by
  simp only [rsqrtClose, Bool.and_eq_true, Bool.not_eq_true'] at h
  obtain ⟨⟨-, hn⟩, h⟩ := h
  obtain ⟨h1, h2⟩ := within_rat h
  rw [Exact.rat_mul, Exact.rat_mul, ← pow_two] at h1 h2
  refine ⟨?_, ?_, ?_⟩
  · have pos : 0 ≤ (fpExact .single y).rat := by
      simp only [Exact.rat, hn, Bool.false_eq_true, if_false, one_mul]
      positivity
    refine lt_of_le_of_ne pos fun e => ?_
    rw [← e] at h1
    norm_num at h1
  · norm_num at h1 ⊢
    linarith
  · norm_num at h2 ⊢
    linarith

/-- What RCP gives for a normal number: a value within the bound of R1149, a denormal one flushed. -/
theorem sRcp_normal {v : Nat} (h : fpCls .single v = .normal) :
    ∃ y, rcpClose (fpExact .single v) y = true ∧ sRcp v = sFlush y := by
  obtain ⟨m, E, h1, h2, h3, h4, e⟩ := single_normal h
  simp only [sRcp, h, rcpNormal, sApproximate]
  refine ⟨_, ?_, rfl⟩
  split
  · assumption
  · rw [e]; exact rcpClose_exact h1 h2 h3 h4

/-- What RSQRT gives for a positive normal number: a value within the bound of R1149, a denormal one flushed. -/
theorem sRsqrt_normal {v : Nat} (h : fpCls .single v = .normal) (hn : fpNeg .single v = false) :
    ∃ y, rsqrtClose (fpExact .single v) y = true ∧ sRsqrt v = sFlush y := by
  obtain ⟨m, E, h1, h2, h3, h4, e⟩ := single_normal h
  simp only [sRsqrt, h, hn, Bool.false_eq_true, if_false, rsqrtNormal, sApproximate]
  refine ⟨_, ?_, rfl⟩
  split
  · assumption
  · rw [e, hn]; exact rsqrtClose_exact h1 h2 h3 h4

end Sys2Proof.Machine
end

