-- ==== Sys2Proof/Laws/Memory.lean ====
section
/-! SUPPORT. The laws of physical memory: reading back what was written, writes elsewhere, the canonical form. -/
namespace Sys2Proof.Machine

theorem Memory.read_write_same (m : List Host.Cell) (a : Nat) (v : Byte) : Memory.wf m = true →
    Memory.read (Memory.write m a v) a = v := by
  suffices h : ∀ lo, Memory.wfFrom lo m = true → Memory.read (Memory.write m a v) a = v from h none
  induction m with
  | nil => intro lo _; by_cases h : v = unlistedByte <;> simp [Memory.write, Memory.read, h]
  | cons c rest ih =>
    obtain ⟨b, w⟩ := c
    intro lo h
    have absent : ∀ (m : List Host.Cell) (l : Nat), a ≤ l → Memory.wfFrom (some l) m = true →
        Memory.read m a = unlistedByte := by
      intro m
      induction m with
      | nil => intro l _ _; rfl
      | cons c rest ih =>
        obtain ⟨b, w⟩ := c
        intro l hl h
        simp only [Memory.wfFrom, Bool.and_eq_true, decide_eq_true_eq] at h
        have hne : a ≠ b := by omega
        simp only [Memory.read, hne, if_false]
        exact ih b (by omega) h.2
    simp only [Memory.wfFrom, Bool.and_eq_true] at h
    simp only [Memory.write]
    split
    · rename_i hab
      split
      · rename_i hv
        have hne : a ≠ b := by omega
        simp only [Memory.read, hne, if_false, hv]
        exact absent rest b (by omega) h.2
      · simp [Memory.read]
    · split
      · rename_i hab; subst hab
        split
        · rename_i hv; rw [hv]; exact absent rest a (Nat.le_refl a) h.2
        · simp [Memory.read]
      · rename_i hne
        simp only [Memory.read, hne, if_false]
        exact ih (some b) h.2

theorem Memory.read_write_other (m : List Host.Cell) (a b : Nat) (v : Byte) (hne : b ≠ a) (hw : Memory.wf m = true) :
    Memory.read (Memory.write m a v) b = Memory.read m b := by
  have absent : ∀ (m : List Host.Cell) (l c : Nat), c ≤ l → Memory.wfFrom (some l) m = true →
      Memory.read m c = unlistedByte := by
    intro m
    induction m with
    | nil => intro l c _ _; rfl
    | cons e rest ih =>
      obtain ⟨x, w⟩ := e
      intro l c hl h
      simp only [Memory.wfFrom, Bool.and_eq_true, decide_eq_true_eq] at h
      have hcx : c ≠ x := by omega
      simp only [Memory.read, hcx, if_false]
      exact ih x c (by omega) h.2
  suffices h : ∀ lo, Memory.wfFrom lo m = true → Memory.read (Memory.write m a v) b = Memory.read m b from h none hw
  clear hw
  induction m with
  | nil => intro lo _; by_cases h : v = unlistedByte <;> simp [Memory.write, Memory.read, h, hne]
  | cons c rest ih =>
    obtain ⟨x, w⟩ := c
    intro lo h
    simp only [Memory.wfFrom, Bool.and_eq_true] at h
    simp only [Memory.write]
    split
    · split
      · rfl
      · simp [Memory.read, hne]
    · split
      · rename_i hax; subst hax
        split
        · simp only [Memory.read, hne, if_false]
        · simp only [Memory.read, hne, if_false]
      · simp only [Memory.read]
        split
        · rfl
        · exact ih (some x) h.2

/-- A write keeps the canonical form. -/
theorem Memory.write_wf (m : List Host.Cell) (a : Nat) (v : Byte) (hw : Memory.wf m = true) :
    Memory.wf (Memory.write m a v) = true := by
  suffices h : ∀ lo, (∀ l, lo = some l → l < a) → Memory.wfFrom lo m = true → Memory.wfFrom lo (Memory.write m a v) = true from
    h none (by simp) hw
  clear hw
  have low : ∀ (rest : List Host.Cell) (x : Nat) (lo : Option Nat), (∀ l, lo = some l → l < x) →
      Memory.wfFrom (some x) rest = true → Memory.wfFrom lo rest = true := by
    intro rest x lo hl h
    cases rest with
    | nil => rfl
    | cons c rest =>
      obtain ⟨y, w⟩ := c
      simp only [Memory.wfFrom, Bool.and_eq_true, decide_eq_true_eq] at h ⊢
      refine ⟨⟨?_, h.1.2⟩, h.2⟩
      cases lo with
      | none => rfl
      | some l => simp only [decide_eq_true_eq]; have := hl l rfl; omega
  induction m with
  | nil =>
    intro lo hl _
    by_cases h : v = unlistedByte
    · simp [Memory.write, h, Memory.wfFrom]
    · simp only [Memory.write, h, if_false, Memory.wfFrom, Bool.and_true, Bool.and_eq_true]
      exact ⟨by cases lo with | none => rfl | some l => simpa using hl l rfl, by simpa using h⟩
  | cons c rest ih =>
    obtain ⟨x, w⟩ := c
    intro lo hl h
    have hx := h
    simp only [Memory.wfFrom, Bool.and_eq_true] at h
    simp only [Memory.write]
    split
    · rename_i hax
      split
      · exact hx
      · rename_i hv
        simp only [Memory.wfFrom, Bool.and_eq_true, decide_eq_true_eq]
        exact ⟨⟨by cases lo with | none => rfl | some l => simpa using hl l rfl, by simpa using hv⟩, ⟨hax, h.1.2⟩, h.2⟩
    · split
      · rename_i hax; subst hax
        split
        · exact low rest a lo hl h.2
        · rename_i hv
          simp only [Memory.wfFrom, Bool.and_eq_true]
          exact ⟨⟨by cases lo with | none => rfl | some l => simpa using hl l rfl, by simpa using hv⟩, h.2⟩
      · rename_i hax hne
        simp only [Memory.wfFrom, Bool.and_eq_true]
        exact ⟨h.1, ih (some x) (by intro l hl'; cases hl'; omega) h.2⟩

/-- Reset's memory has the canonical form. -/
theorem State.reset_memory_wf : State.reset.canonical := ⟨rfl, rfl⟩

/-! ## The platform and SMRAM -/

/-- The default platform is RAM (log 1). -/
@[simp] theorem regionKind_ram (a : Nat) : regionKind a = none := rfl

theorem State.inSmram_low {s : State} {a : Nat} (h : s.inSmram a = true) : a < 2 ^ 32 := by
  simp only [State.inSmram, Bool.and_eq_true, decide_eq_true_eq] at h
  exact h.2.1

theorem State.kindAt_below (s : State) {a : Nat} (h : a < smramKey) : s.kindAt a = none := by
  unfold State.kindAt
  split
  · rfl
  · rw [if_neg (by omega)]; rfl

/-- A byte that keeps what is stored is one of the physical address space. -/
theorem State.storable_below {s : State} {a : Nat} (h : s.storable a = true) : a < smramKey := by
  by_cases hs : s.inSmram a = true
  · have := State.inSmram_low hs
    unfold smramKey; omega
  · by_cases hk : smramKey ≤ a
    · simp [State.storable, State.kindAt, hs, hk] at h
    · omega

theorem State.storable_ordinary (s : State) {a : Nat} (h : ordinary a) : s.storable a = true := by
  simp only [State.storable, s.kindAt_below h.1, inMessages]
  have := h.2
  simp
  omega

/-- Two physical addresses have two places in the list of memory. -/
theorem State.cell_inj {s : State} {a b : Nat} (ha : a < smramKey) (hb : b < smramKey) (h : s.cell a = s.cell b) : a = b := by
  unfold State.cell at h
  split at h <;> split at h <;> omega

theorem apicRead_ordinary (s : State) (a : Nat) (h : ordinary a) : apicRead s a = none := by
  unfold apicRead
  have := h.2
  rw [if_pos (by omega)]

/-- An ordinary byte reads what the list of memory holds at its place. -/
theorem physRead8_ordinary (s : State) {a : Nat} (h : ordinary a) : physRead8 s a = Memory.read s.mem (s.cell a) := by
  simp [physRead8, apicRead_ordinary s a h, s.kindAt_below h.1]

/-! ## Writes -/

/-- A byte write changes memory, the marks on its bytes and the local APIC only. -/
theorem physWrite8_frame (s : State) (a : Nat) (v : Byte) :
    ∃ m h p, physWrite8 s a v = { s with mem := m, adMarks := h, apic := p } := by
  unfold physWrite8
  repeat' split
  all_goals exact ⟨_, _, _, rfl⟩

/-- A byte write keeps the canonical form. -/
theorem physWrite8_wf (s : State) (a : Nat) (v : Byte) (h : s.canonical) : (physWrite8 s a v).canonical := by
  have written := And.intro (Memory.write_wf s.mem (s.cell a) v h.1) (Memory.write_wf s.adMarks (s.cell a) 0 h.2)
  unfold physWrite8
  repeat' split
  all_goals first | exact written | exact h

/-- A byte write leaves every other ordinary byte as it was. -/
theorem physRead8_write_other (s : State) (a b : Nat) (v : Byte) (hw : s.canonical) (hb : ordinary b)
    (hne : b ≠ a) : physRead8 (physWrite8 s a v) b = physRead8 s b := by
  rw [physRead8_ordinary _ hb, physRead8_ordinary _ hb]
  unfold physWrite8
  repeat' split
  · rfl
  · rfl
  · rfl
  · rename_i hs
    exact Memory.read_write_other _ _ _ _ (fun h => hne (State.cell_inj hb.1 (State.storable_below hs) h)) hw.1
  · rfl

/-- An ordinary byte reads as it was written. -/
theorem physRead8_write_same (s : State) (a : Nat) (v : Byte) (hw : s.canonical) (ha : ordinary a) :
    physRead8 (physWrite8 s a v) a = v := by
  rw [physRead8_ordinary _ ha]
  have h1 : a ≠ 0xFEE00080 := by have := ha.2; omega
  have h2 : a ≠ 0xFEE000B0 := by have := ha.2; omega
  simp only [physWrite8, h1, h2, if_false, apicRead_ordinary s a ha, s.storable_ordinary ha, if_true]
  exact Memory.read_write_same _ _ _ hw.1

theorem physWriteBytes_frame (as : List Nat) (s : State) (v : Nat) :
    ∃ m h p, physWriteBytes s v as = { s with mem := m, adMarks := h, apic := p } := by
  induction as generalizing s v with
  | nil => exact ⟨s.mem, s.adMarks, s.apic, rfl⟩
  | cons a rest ih =>
    obtain ⟨m, h, p, e⟩ := physWrite8_frame s a (BitVec.ofNat 8 v)
    obtain ⟨m', h', p', e'⟩ := ih (physWrite8 s a (BitVec.ofNat 8 v)) (v / 256)
    exact ⟨m', h', p', by rw [physWriteBytes, e', e]⟩

theorem physWriteBytes_wf (as : List Nat) (s : State) (v : Nat) (h : s.canonical) : (physWriteBytes s v as).canonical := by
  induction as generalizing s v with
  | nil => exact h
  | cons a rest ih => exact ih _ _ (physWrite8_wf _ _ _ h)

theorem physRead8_writeBytes_other (as : List Nat) (s : State) (v b : Nat) (hw : s.canonical) (hb : ordinary b)
    (hne : b ∉ as) : physRead8 (physWriteBytes s v as) b = physRead8 s b := by
  induction as generalizing s v with
  | nil => rfl
  | cons a rest ih =>
    simp only [List.mem_cons, not_or] at hne
    simp only [physWriteBytes]
    rw [ih _ _ (physWrite8_wf _ _ _ hw) hne.2, physRead8_write_other _ _ _ _ hw hb hne.1]

/-- A message changes the local APIC and the pending events only (60 R1590). -/
theorem State.message_frame (s : State) (address data : Word32) (ext : Byte) :
    ∃ p q, s.message address data ext = { s with apic := p, pending := q } := by
  unfold State.message
  dsimp only
  repeat' split
  all_goals exact ⟨_, _, rfl⟩

/-- A store changes memory, the marks on its bytes, the local APIC and the pending events only. -/
theorem physWriteNat_frame (as : List Nat) (s : State) (v : Nat) :
    ∃ m h p q, physWriteNat s v as = { s with mem := m, adMarks := h, apic := p, pending := q } := by
  unfold physWriteNat
  split
  · obtain ⟨p, q, e⟩ := s.message_frame (BitVec.ofNat 32 _) (BitVec.ofNat 32 v) Config.extVector
    exact ⟨s.mem, s.adMarks, p, q, e⟩
  · obtain ⟨m, h, p, e⟩ := physWriteBytes_frame as s v
    exact ⟨m, h, p, s.pending, e⟩

theorem physWriteNat_wf (as : List Nat) (s : State) (v : Nat) (h : s.canonical) : (physWriteNat s v as).canonical := by
  unfold physWriteNat
  split
  · obtain ⟨p, q, e⟩ := s.message_frame (BitVec.ofNat 32 _) (BitVec.ofNat 32 v) Config.extVector
    rw [e]; exact h
  · exact physWriteBytes_wf _ _ _ h

/-- A write of several bytes leaves every other ordinary byte as it was. -/
theorem physRead8_writeNat_other (as : List Nat) (s : State) (v b : Nat) (hw : s.canonical) (hb : ordinary b)
    (hne : b ∉ as) : physRead8 (physWriteNat s v as) b = physRead8 s b := by
  unfold physWriteNat
  split
  · obtain ⟨p, q, e⟩ := s.message_frame (BitVec.ofNat 32 _) (BitVec.ofNat 32 v) Config.extVector
    rw [e, physRead8_ordinary _ hb, physRead8_ordinary _ hb]; rfl
  · exact physRead8_writeBytes_other _ _ _ _ hw hb hne

/-! ## The accessed and dirty flags of paging entries -/

/-- Setting a flag of an entry changes memory, the marks on its bytes and the local APIC only. -/
theorem setEntryBit_frame (i : Nat) (s : State) (a : Nat) :
    ∃ m h p, setEntryBit i s a = { s with mem := m, adMarks := h, apic := p } := by
  obtain ⟨m, h, p, e⟩ := physWrite8_frame s a (setBit (physRead8 s a) i true)
  unfold setEntryBit
  dsimp only
  split
  · exact ⟨s.mem, s.adMarks, s.apic, rfl⟩
  · exact ⟨m, _, p, by rw [e]⟩

theorem setEntryBit_wf (i : Nat) (s : State) (a : Nat) (h : s.canonical) : (setEntryBit i s a).canonical := by
  unfold setEntryBit
  dsimp only
  split
  · exact h
  · have k := physWrite8_wf s a (setBit (physRead8 s a) i true) h
    exact ⟨k.1, Memory.write_wf _ _ _ k.2⟩

theorem setEntryBits_wf (i : Nat) (as : List Nat) (s : State) (h : s.canonical) : (setEntryBits i s as).canonical := by
  induction as generalizing s with
  | nil => exact h
  | cons a rest ih => exact ih _ (setEntryBit_wf _ _ _ h)

/-- An ordinary byte after a flag of an entry is set: the byte with the flag, or as before. -/
theorem physRead8_setEntryBit (i : Nat) (s : State) (a b : Nat) (hw : s.canonical) (hb : ordinary b) :
    physRead8 (setEntryBit i s a) b = if b = a then setBit (physRead8 s b) i true else physRead8 s b := by
  by_cases hset : (physRead8 s a).getLsbD i = true
  · have same : ∀ v : Byte, v.getLsbD i = true → setBit v i true = v := by
      intro v hv
      ext j hj
      simp only [setBit, if_true, BitVec.getElem_or]
      by_cases hij : j = i
      · subst hij; simp [← BitVec.getLsbD_eq_getElem, hv]
      · simp [BitVec.getElem_shiftLeft]; omega
    unfold setEntryBit
    simp only [hset, if_true]
    split
    · rename_i e; subst e; exact (same _ hset).symm
    · rfl
  · have e : physRead8 (setEntryBit i s a) b = physRead8 (physWrite8 s a (setBit (physRead8 s a) i true)) b := by
      unfold setEntryBit
      simp only [hset]
      rw [physRead8_ordinary _ hb, physRead8_ordinary _ hb]
      rfl
    rw [e]
    split
    · rename_i h; subst h; exact physRead8_write_same _ _ _ hw hb
    · rename_i h; exact physRead8_write_other _ _ _ _ hw hb h

end Sys2Proof.Machine
end

