-- ==== Sys2Proof/Laws/Ops.lean ====
section
/-! SUPPORT. What the inner language and the shared operations can do: how a body runs, what an operand access may change,
and what a completed instruction leaves. -/
namespace Sys2Proof.Machine

/-! ## Running a body -/

@[simp] theorem run_pure {α : Type} (a : α) (s : State) : (pure a : M α) s = .ok a s := rfl
/-- How a body goes on from the outcome of its first part: a part that stopped stops it. -/
def afterwards {α β : Type} (next : α → M β) : EStateM.Result Halt State α → EStateM.Result Halt State β
  | .ok a t => next a t
  | .error e t => .error e t
@[simp] theorem afterwards_ok {α β : Type} (next : α → M β) (a : α) (t : State) : afterwards next (.ok a t) = next a t := rfl
@[simp] theorem afterwards_error {α β : Type} (next : α → M β) (e : Halt) (t : State) :
    afterwards next (.error e t) = .error e t := rfl
/-- A body that succeeds went on from what its first part left. -/
theorem afterwards_done {α β : Type} {next : α → M β} {r : EStateM.Result Halt State α} {b : β} {u : State}
    (done : afterwards next r = .ok b u) : ∃ a t, r = .ok a t ∧ next a t = .ok b u := by
  rcases r with ⟨a, t⟩ | ⟨e, t⟩
  · exact ⟨a, t, rfl, done⟩
  · cases done

@[simp] theorem run_bind {α β : Type} (x : M α) (next : α → M β) (s : State) : (x >>= next) s = afterwards next (x s) := by
  simp only [bind, EStateM.bind]
  rcases x s with ⟨a, t⟩ | ⟨e, t⟩ <;> rfl
@[simp] theorem run_map {α β : Type} (f : α → β) (x : M α) (s : State) : (f <$> x) s = afterwards (fun a => pure (f a)) (x s) := by
  simp only [Functor.map, EStateM.map]
  rcases x s with ⟨a, t⟩ | ⟨e, t⟩ <;> rfl
@[simp] theorem run_ask {α : Type} (f : State → α) (s : State) : ask f s = .ok (f s) s := rfl
@[simp] theorem run_update (f : State → State) (s : State) : update f s = .ok () (f s) := rfl
@[simp] theorem run_halt {α : Type} (h : Halt) (s : State) : (halt h : M α) s = .error h s := rfl
@[simp] theorem run_raise {α : Type} (e : Event) (s : State) : (raise e : M α) s = .error (.event e) s := rfl
@[simp] theorem run_refuse {α : Type} (r : Refusal) (s : State) : (refuse r : M α) s = .error (.refused r) s := rfl
@[simp] theorem run_nextDraw (s : State) : nextDraw s = .ok s.draws { s with draws := s.draws + 1 } := rfl
@[simp] theorem run_free (w : Nat) (s : State) :
    free w s = .ok (Config.freeBits w s.draws) { s with draws := s.draws + 1 } := rfl
@[simp] theorem run_freeBit (s : State) :
    freeBit s = .ok ((Config.freeBits 1 s.draws).getLsbD 0) { s with draws := s.draws + 1 } := rfl
@[simp] theorem run_getFlag (i : Nat) (s : State) : getFlag i s = .ok (s.flag i) s := rfl
@[simp] theorem run_putFlag (i : Nat) (v : Bool) (s : State) : putFlag i v s = .ok () (s.setFlag i v) := rfl
@[simp] theorem run_undefFlag (i : Nat) (s : State) :
    undefFlag i s = .ok () ({ s with draws := s.draws + 1 }.setFlag i ((Config.freeBits 1 s.draws).getLsbD 0)) := rfl
@[simp] theorem run_getReg (sz : Sz) (r : RegNum) (s : State) : getReg sz r s = .ok (s.readReg sz r) s := rfl
@[simp] theorem run_putReg (sz : Sz) (r : RegNum) (v : BitVec sz.bits) (s : State) :
    putReg sz r v s = .ok () (s.writeReg sz r v) := rfl
@[simp] theorem run_getXmm (r : RegNum) (s : State) : getXmm r s = .ok (s.xmmReg r) s := rfl
@[simp] theorem run_putXmm (r : RegNum) (v : Word128) (s : State) : putXmm r v s = .ok () (s.setXmm r v) := rfl
@[simp] theorem run_getMm (r : RegNum) (s : State) : getMm r s = .ok (s.mmReg r) s := rfl
@[simp] theorem run_putMm (r : RegNum) (v : Word64) (s : State) : putMm r v s = .ok () (s.setMm r v) := rfl
@[simp] theorem run_readAt (w : Nat) (as : List Nat) (s : State) :
    readAt w as s = .ok (BitVec.ofNat w (physReadNat s as)) s := rfl
@[simp] theorem run_writeAt (v : Nat) (as : List Nat) (s : State) : writeAt v as s = .ok () (physWriteNat s v as) := rfl
@[simp] theorem run_look (sz : Sz) (l : Loc) (s : State) : l.read sz s = .ok (s.look sz l) s := by cases l <;> rfl
@[simp] theorem run_place (sz : Sz) (l : Loc) (v : BitVec sz.bits) (s : State) :
    l.write sz v s = .ok () (s.place sz l v) := by cases l <;> rfl
@[simp] theorem run_setEsp (v : Word32) (s : State) :
    setEsp v s = .ok () { s with gpr := { s.gpr with r4 := v } } := rfl
@[simp] theorem run_loadFlags (image mask : Word32) (s : State) :
    loadFlags image mask s = .ok () { s with eflags := (s.eflags &&& ~~~mask) ||| (image &&& mask) } := rfl

/-! ## Forms without SSE2 -/

@[simp] theorem pkForm_sse2 (o : Pk) : pkForm true o = o := by cases o <;> rfl
@[simp] theorem shiftForm_sse2 (o : PkShift) : shiftForm true o = o := by cases o <;> rfl
@[simp] theorem movdForm_sse2 (f : MovdForm) : movdForm true f = f := by cases f <;> rfl
@[simp] theorem maskForm_sse2 (o : PkToGpr) : maskForm true o = o := by cases o <;> rfl

/-! ## Vector instructions in real-address mode -/

/-- What `realGp` does to a body that ends well: nothing. -/
theorem realGp_ok {α : Type} {x : M α} {s t : State} {a : α} (h : x s = .ok a t) : realGp x s = .ok a t := by
  simp [realGp, h]

/-- All that `realGp` changes: #SS is #GP outside protected mode. -/
theorem realGp_error {α : Type} {x : M α} {s t : State} {h : Halt} (hx : x s = .error h t) :
    realGp x s = .error (match h with | .event e => .event (e.asReal s.pe) | o => o) t := by
  cases h <;> simp [realGp, hx]

@[simp] theorem asReal_pe (e : Event) : e.asReal true = e := rfl
@[simp] theorem asReal_other (e : Event) (pe : Bool) (h : e.vector ≠ 12) : e.asReal pe = e := by
  simp only [Event.asReal, beq_false_of_ne h, Bool.and_false, Bool.false_eq_true, if_false]

/-! ## The frame of an instruction -/

/-- An instruction whose body ends in u goes on to the next one. -/
theorem runPlain_ok {lockOk : Bool} {body : M Unit} {s u : State} (hl : LockOk s lockOk)
    (h : body s.begin = .ok () u) : runPlain lockOk body s = .next (s.done u) := by
  have hc : (s.cur.lock && !lockOk) = false := by
    cases hk : s.cur.lock <;> cases ho : lockOk <;> simp_all [LockOk]
  simp [runPlain, runJump, hc, h, State.done]

/-- A vector instruction whose body ends in u goes on to the next one. -/
theorem runSimd_ok {body : M Unit} {s u : State} (hl : LockOk s false) (h : body s.begin = .ok () u) :
    runSimd body s = .next (s.done u) :=
  runPlain_ok hl (realGp_ok h)

/-- A transfer whose body ends in u and answers its target. -/
theorem runJump_ok {lockOk keepRf : Bool} {body : M Word32} {s u : State} {eip : Word32} (hl : LockOk s lockOk)
    (h : body s.begin = .ok eip u) : runJump lockOk keepRf body s = .next (s.complete u keepRf eip) := by
  have hc : (s.cur.lock && !lockOk) = false := by
    cases hk : s.cur.lock <;> cases ho : lockOk <;> simp_all [LockOk]
  simp [runJump, hc, h]

/-- Everything an instruction can do: it completes with what its body leaves, takes the event its body raises, shuts
down, or stops as its body stops. -/
theorem runJump_cases {lockOk keepRf : Bool} {body : M Word32} {s t : State} (hl : LockOk s lockOk)
    (h : runJump lockOk keepRf body s = .next t) :
    (∃ eip u, body s.begin = .ok eip u ∧ t = s.complete u keepRf eip) ∨
    (∃ e u, body s.begin = .error (.event e) u ∧
      takeEvent e s.eip (s.savedEip e.kind) (s.forEvent u e.kind) = .next t) ∨
    (∃ u, body s.begin = .error .shutdown u ∧ t = (s.forEvent u .fault).enterShutdown) := by
  have hc : (s.cur.lock && !lockOk) = false := by
    cases hk : s.cur.lock <;> cases ho : lockOk <;> simp_all [LockOk]
  simp only [runJump, hc] at h
  split at h
  · rename_i eip u hb; cases h; exact .inl ⟨eip, u, hb, rfl⟩
  · rename_i e u hb; exact .inr (.inl ⟨e, u, hb, h⟩)
  · rename_i u hb; cases h; exact .inr (.inr ⟨u, hb, rfl⟩)
  · cases h
  · cases h

/-- LOCK where it is not allowed is #UD (20_memory R260). -/
theorem runJump_locked {keepRf : Bool} {body : M Word32} {s : State} (hl : s.cur.lock = true) :
    runJump false keepRf body s = takeEvent { vector := 6 } s.eip s.eip (s.forEvent s.begin .fault) := by
  simp [runJump, hl, raiseUD, State.savedEip]

/-! ## Accesses -/

/-- What an access to memory may change besides answering: the accessed and dirty flags of paging entries, with the marks
that an instruction fetch may not see them yet, the TLB, the draws, and the debug traps that wait. -/
structure Accessed (s t : State) : Prop where
  frame : ∃ m h p b d x, t = { s with mem := m, adMarks := h, apic := p, tlb := b, draws := d, traps := x }
  kept : Kept s t []
  canonical : s.canonical → t.canonical

theorem Accessed.refl (s : State) : Accessed s s :=
  ⟨⟨s.mem, s.adMarks, s.apic, s.tlb, s.draws, s.traps, rfl⟩, fun _ _ _ _ => .inl rfl, id⟩

/-- A change of the TLB, the draws and the traps alone. -/
theorem Accessed.light (s : State) (b : List TlbEntry) (d : Nat) (x : Word32) :
    Accessed s { s with tlb := b, draws := d, traps := x } :=
  ⟨⟨s.mem, s.adMarks, s.apic, b, d, x, rfl⟩, fun _ a ha _ => .inl (by rw [physRead8_ordinary _ ha, physRead8_ordinary _ ha]; rfl),
    id⟩

theorem Accessed.trans {s t u : State} (h : Accessed s t) (k : Accessed t u) : Accessed s u := by
  obtain ⟨m, g, p, b, d, x, e⟩ := h.frame
  obtain ⟨m', g', p', b', d', x', e'⟩ := k.frame
  refine ⟨⟨m', g', p', b', d', x', by rw [e', e]⟩, ?_, fun hc => k.canonical (h.canonical hc)⟩
  intro hc a ha hn
  have hp : t.paging = s.paging := by rw [e]; rfl
  rcases h.kept hc a ha hn with h1 | ⟨h0, h1⟩ <;> rcases k.kept (h.canonical hc) a ha hn with h2 | ⟨h3, h2⟩
  · exact .inl (h2.trans h1)
  · exact .inr ⟨hp ▸ h3, by rw [h2, h1]⟩
  · exact .inr ⟨h0, by rw [h2, h1]⟩
  · exact .inr ⟨h0, by rw [h2, h1]⟩

/-- A body that, where it succeeds, only accesses. -/
def Accesses {α : Type} (x : M α) : Prop := ∀ s a t, x s = .ok a t → Accessed s t

theorem Accesses.pure {α : Type} (a : α) : Accesses (Pure.pure a : M α) := by
  intro s b t h; cases h; exact .refl s
theorem Accesses.ask {α : Type} (f : State → α) : Accesses (ask f) := by
  intro s b t h; cases h; exact .refl s
theorem Accesses.halt {α : Type} (h : Halt) : Accesses (halt h : M α) := by
  intro s b t h; cases h
theorem Accesses.raise {α : Type} (e : Event) : Accesses (raise e : M α) := Accesses.halt _
theorem Accesses.refuse {α : Type} (r : Refusal) : Accesses (refuse r : M α) := Accesses.halt _
theorem Accesses.bind {α : Type} {x : M α} (first : Accesses x) {β : Type} {next : α → M β} (later : ∀ a, Accesses (next a)) :
    Accesses (x >>= next) := fun s _ _ done =>
  have ⟨a, t, reached, rest⟩ := afterwards_done (run_bind x next s ▸ done)
  (first s a t reached).trans (later a t _ _ rest)
theorem Accesses.ite {α : Type} {c : Prop} [Decidable c] {x y : M α} (hx : Accesses x) (hy : Accesses y) :
    Accesses (if c then x else y) := by
  split <;> assumption

theorem Accesses.update {f : State → State} (h : ∀ s, Accessed s (f s)) : Accesses (update f) := by
  intro s b t ht; cases ht; exact h s

theorem Accesses.free (w : Nat) : Accesses (free w) := by
  intro s b t h; cases h
  exact .light s s.tlb (s.draws + 1) s.traps

theorem Accesses.freeBit : Accesses freeBit := .bind (.free 1) fun _ => .pure _

/-- Setting an accessed or dirty flag of an entry. -/
theorem setBit_mask (v : Byte) (i : Nat) (hi : i = 5 ∨ i = 6) : setBit v i true &&& 0x9F = v &&& 0x9F := by
  rcases hi with rfl | rfl <;> revert v <;> decide

theorem setEntryBits_accessed (i : Nat) (hi : i = 5 ∨ i = 6) (as : List Nat) (s : State) (hp : s.paging = true) :
    Accessed s (setEntryBits i s as) := by
  induction as generalizing s with
  | nil => exact .refl s
  | cons a rest ih =>
    obtain ⟨m, h, p, e⟩ := setEntryBit_frame i s a
    have h1 : Accessed s (setEntryBit i s a) := by
      refine ⟨⟨m, h, p, s.tlb, s.draws, s.traps, by rw [e]⟩, ?_, fun hc => setEntryBit_wf _ _ _ hc⟩
      intro hc b hb _
      rw [physRead8_setEntryBit _ _ _ _ hc hb]
      split
      · exact .inr ⟨hp, setBit_mask _ _ hi⟩
      · exact .inl rfl
    exact h1.trans (ih _ (by rw [e]; exact hp))

/-- A check that leaves nothing. -/
theorem probe_ok {α : Type} {x : M α} {s t : State} {u : Unit} (h : probe x s = .ok u t) : t = s := by
  unfold probe at h
  split at h <;> cases h
  rfl

theorem Accesses.probe {α : Type} (x : M α) : Accesses (probe x) := by
  intro s b t h
  rw [probe_ok h]; exact .refl s

/-- With paging on, a body that succeeds only accesses. -/
def Walks {α : Type} (x : M α) : Prop := ∀ s a t, s.paging = true → x s = .ok a t → Accessed s t

theorem Accesses.walks {α : Type} {x : M α} (h : Accesses x) : Walks x := fun s a t _ k => h s a t k

theorem Accessed.paging {s t : State} (h : Accessed s t) : t.paging = s.paging := by
  obtain ⟨m, g, p, b, d, x, e⟩ := h.frame
  rw [e]; rfl

theorem Walks.bind {α : Type} {x : M α} (first : Walks x) {β : Type} {next : α → M β} (later : ∀ a, Walks (next a)) :
    Walks (x >>= next) := fun s _ _ on done =>
  have ⟨a, t, reached, rest⟩ := afterwards_done (run_bind x next s ▸ done)
  have passed := first s a t on reached
  passed.trans (later a t _ _ (passed.paging.trans on) rest)

theorem Walks.update {f : State → State} (h : ∀ s, s.paging = true → Accessed s (f s)) : Walks (update f) := by
  intro s b t hp ht; cases ht; exact h s hp

theorem useWalk_walks (la : Word32) (write asUser : Bool) (w : Walk) : Walks (useWalk la write asUser w) := by
  cases w with
  | absent => exact (Accesses.raise _).walks
  | reserved => exact (Accesses.raise _).walks
  | page p =>
    have set5 : Walks (Machine.update fun s => setEntryBits 5 s p.entries) :=
      .update fun s hp => setEntryBits_accessed 5 (.inl rfl) _ _ hp
    have set6 : Walks (Machine.update fun s => setEntryBits 6 s (p.entries.drop (p.entries.length - 1))) :=
      .update fun s hp => setEntryBits_accessed 6 (.inr rfl) _ _ hp
    dsimp only [useWalk]
    refine .bind (Accesses.ask _).walks fun ok => ?_
    split
    · exact .bind (Accesses.raise _).walks fun _ => .bind set5 fun _ => by
        split
        · exact .bind set6 fun _ => .bind (.update fun s _ => Accessed.light s _ s.draws s.traps) fun _ => (Accesses.pure _).walks
        · exact .bind (.update fun s _ => Accessed.light s _ s.draws s.traps) fun _ => (Accesses.pure _).walks
    · exact .bind set5 fun _ => by
        split
        · exact .bind set6 fun _ => .bind (.update fun s _ => Accessed.light s _ s.draws s.traps) fun _ => (Accesses.pure _).walks
        · exact .bind (.update fun s _ => Accessed.light s _ s.draws s.traps) fun _ => (Accesses.pure _).walks

theorem useCached_walks (la : Word32) (write asUser : Bool) (e : TlbEntry) (w : Walk) :
    Walks (useCached la write asUser e w) := by
  unfold useCached
  split
  · exact useWalk_walks _ _ _ _
  · refine .bind (Accesses.ask _).walks fun ok => ?_
    split
    · exact (Accesses.pure _).walks
    · exact (Accesses.raise _).walks

theorem walk_accesses (la : Word32) : Accesses (walk la) := by
  unfold walk choosePdpte
  refine .bind (.ask _) fun b => ?_
  cases b
  · exact .ask _
  · refine .bind (.bind (.ask _) fun f => .bind (.ask _) fun p => ?_) fun p => .ask _
    split
    · exact .pure _
    · refine .ite (.pure _) (.bind .freeBit fun b => ?_)
      cases b <;> exact .pure _

theorem translatePage_walks (la : Word32) (write asUser : Bool) : Walks (translatePage la write asUser) := by
  unfold translatePage
  refine .bind (walk_accesses la).walks fun w => .bind (Accesses.ask _).walks fun e => ?_
  split
  · exact useWalk_walks _ _ _ _
  · refine .bind (Accesses.ask _).walks fun same => ?_
    split
    · exact useCached_walks _ _ _ _ _
    · refine .bind Accesses.freeBit.walks fun b => ?_
      split
      · exact useCached_walks _ _ _ _ _
      · exact useWalk_walks _ _ _ _

theorem translate_accesses (la : Word32) (write asUser : Bool) : Accesses (translate la write asUser) := by
  intro s a t h
  by_cases hp : s.paging = true
  · refine (Walks.bind (x := Machine.ask State.paging) (Accesses.ask _).walks (fun b => ?_)) s a t hp h
    split
    · exact .bind (translatePage_walks _ _ _) fun _ => (Accesses.pure _).walks
    · exact (Accesses.pure _).walks
  · simp [translate, hp] at h
    rw [← h.2]; exact .refl s

theorem translateFrom_accesses (n : Nat) (la : Word32) (prev : Nat) (write asUser : Bool) :
    Accesses (translateFrom la prev write asUser n) := by
  induction n generalizing la prev with
  | zero => exact .pure _
  | succ n ih =>
    have rest : ∀ a, Accesses (do let rest ← translateFrom (la + 1) a write asUser n; return a :: rest) :=
      fun a => .bind (ih _ _) fun _ => .pure _
    simp only [translateFrom]
    split
    · exact .bind (translate_accesses _ _ _) rest
    · exact .bind (.pure _) rest

theorem checkDevice_accesses (as : List Nat) : Accesses (checkDevice as) :=
  .bind (.ask _) fun _ => .ite (.refuse _) (.pure _)

/-- On the default platform no address is a device's (log 1). -/
@[simp] theorem run_checkDevice (as : List Nat) (s : State) : checkDevice as s = .ok () s := by
  have h : (as.any fun a => s.kindAt a == some .device) = false := by
    rw [List.any_eq_false]
    intro a _
    unfold State.kindAt
    split
    · simp
    · split <;> simp
  simp [checkDevice, h]

theorem translateRange_accesses (la : Word32) (n : Nat) (write asUser : Bool) :
    Accesses (translateRange la n write asUser) := by
  cases n with
  | zero => exact .pure _
  | succ n =>
    exact .bind (translate_accesses _ _ _) fun a => .bind (translateFrom_accesses _ _ _ _ _) fun _ =>
      .bind (checkDevice_accesses _) fun _ => .pure _

theorem sysRead_accesses (la : Word32) (n : Nat) : Accesses (sysRead la n) :=
  .bind (translateRange_accesses _ _ _ _) fun _ => .ask _

theorem raiseSeg_accesses {α : Type} (sg : Seg) : Accesses (raiseSeg sg : M α) := .ite (.raise _) (.raise _)

theorem linear_accesses (sg : Seg) (off : Word32) (n : Nat) (write : Bool) : Accesses (linear sg off n write) := by
  have gate : ∀ r : SegReg, Accesses (do
      if !(← ask fun s => s.inLimit r off n) then raiseSeg sg
      return r.base + off) :=
    fun r => .bind (.ask _) fun _ => .ite (.bind (raiseSeg_accesses _) fun _ => .pure _) (.pure _)
  refine .bind (.ask _) fun r => .bind (.ask _) fun _ => .ite ?_ (gate r)
  refine .ite (.bind (.raise _) fun _ => ?_) ?_ <;> refine .ite (.bind (.raise _) fun _ => ?_) ?_ <;>
    exact .ite (.bind (.raise _) fun _ => gate r) (gate r)

theorem noteData_accesses (la : Word32) (n : Nat) (write : Bool) : Accesses (noteData la n write) := by
  have pend : ∀ b, Accesses (pendDebug b) := fun b => .update fun s => .light s s.tlb s.draws _
  have controls : ∀ kinds, Accesses (checkBreakControls kinds) := fun _ => .bind (.ask _) fun _ => .ite (.refuse _) (.pure _)
  exact .bind (controls _) fun _ => .bind (.ask _) fun _ => pend _

theorem alignCheck_accesses (la : Word32) (n : Nat) : Accesses (alignCheck la n) := by
  exact .bind (.ask _) fun _ => .ite (.raise _) (.pure _)

/-- A data access that passes its checks only accesses (20_memory R205 to R236). -/
theorem dataAddrs_accesses (sg : Seg) (off : Word32) (n : Nat) (write : Bool) : Accesses (dataAddrs sg off n write) :=
  .bind (linear_accesses _ _ _ _) fun _ => .bind (.ask _) fun _ => .bind (translateRange_accesses _ _ _ _) fun _ =>
    .bind (alignCheck_accesses _ _) fun _ => .bind (noteData_accesses _ _ _) fun _ => .pure _

theorem memAddrs_accesses (m : MemRef) (n : Nat) (write : Bool) : Accesses (memAddrs m n write) :=
  .bind (.ask _) fun _ => dataAddrs_accesses _ _ _ _

theorem loadMem_accesses (w : Nat) (sg : Seg) (off : Word32) : Accesses (loadMem w sg off) :=
  .bind (dataAddrs_accesses _ _ _ _) fun _ => .ask _

theorem readMem_accesses (w : Nat) (m : MemRef) : Accesses (readMem w m) :=
  .bind (memAddrs_accesses _ _ _) fun _ => .ask _

theorem readMemPlus_accesses (w : Nat) (m : MemRef) (d : Word32) : Accesses (readMemPlus w m d) :=
  .bind (.ask _) fun _ => loadMem_accesses _ _ _

theorem locate_accesses (sz : Sz) (x : Rm) (write : Bool) : Accesses (locate sz x write) := by
  cases x with
  | reg r => exact .pure _
  | mem m => exact .bind (memAddrs_accesses _ _ _) fun _ => .pure _

theorem target_accesses (sz : Sz) (x : Rm) (stores : Bool) : Accesses (target sz x stores) := by
  unfold target
  cases stores
  · exact .bind (.probe _) fun _ => locate_accesses _ _ _
  · exact locate_accesses _ _ _

theorem readRm_accesses (sz : Sz) (x : Rm) : Accesses (readRm sz x) := by
  refine .bind (locate_accesses _ _ _) fun l => ?_
  cases l <;> exact .ask _

theorem alignedAddrs_accesses (m : MemRef) (write : Bool) : Accesses (alignedAddrs m write) := by
  exact .bind (.ask _) fun _ => .ite (.bind (.raise _) fun _ => dataAddrs_accesses _ _ _ _) (dataAddrs_accesses _ _ _ _)

theorem readX_accesses (x : Rm) : Accesses (readX x) := by
  cases x with
  | reg r => exact .ask _
  | mem m => exact .bind (alignedAddrs_accesses _ _) fun _ => .ask _

theorem readXmmRm_accesses (w : Nat) (x : Rm) : Accesses (readXmmRm w x) := by
  cases x with
  | reg r => exact .bind (.ask _) fun _ => .pure _
  | mem m => exact readMem_accesses _ _

theorem readMmRm_accesses (x : Rm) : Accesses (readMmRm x) := by
  cases x with
  | reg r => exact .ask _
  | mem m => exact readMem_accesses _ _

theorem peek_accesses (n d : Nat) : Accesses (peek n d) :=
  .bind (.ask _) fun _ => .bind (loadMem_accesses _ _ _) fun _ => .pure _

/-! ## What a completed instruction keeps -/

/-- An ordinary byte depends on memory and on where SMRAM is visible alone. -/
theorem physRead8_congr {s t : State} (hm : t.mem = s.mem) (hi : t.inSmm = s.inSmm) (hb : t.smbase = s.smbase) {a : Nat}
    (ha : ordinary a) : physRead8 t a = physRead8 s a := by
  rw [physRead8_ordinary _ ha, physRead8_ordinary _ ha, hm]
  simp [State.cell, State.inSmram, hi, hb]

theorem Kept.of_eq {s t u : State} {stored : List Nat} (h : Kept s t stored) (hm : u.mem = t.mem) (hi : u.inSmm = t.inSmm)
    (hb : u.smbase = t.smbase) : Kept s u stored :=
  fun hc a ho hn => by rw [physRead8_congr hm hi hb ho]; exact h hc a ho hn

theorem Kept.done {s u : State} {stored : List Nat} (h : Kept s u stored) : Kept s (s.done u) stored :=
  h.of_eq rfl rfl rfl

theorem Kept.mono {s t : State} {as bs : List Nat} (h : Kept s t as) (hs : ∀ a ∈ as, a ∈ bs) : Kept s t bs :=
  fun hc a ho hn => h hc a ho fun k => hn (hs a k)

/-- After an access, a store to the given addresses changes no other byte. -/
theorem Accessed.store {s t : State} (h : Accessed s t) (v : Nat) (as : List Nat) : Kept s (physWriteNat t v as) as := by
  intro hc a ho hn
  rw [physRead8_writeNat_other _ _ _ _ (h.canonical hc) ho hn]
  exact h.kept hc a ho (by simp)

theorem Accessed.store_canonical {s t : State} (h : Accessed s t) (v : Nat) (as : List Nat) (hc : s.canonical) :
    (physWriteNat t v as).canonical := physWriteNat_wf _ _ _ (h.canonical hc)

/-- Registers have no bytes in memory. -/
theorem writeReg_mem (s : State) (sz : Sz) (r : RegNum) (v : BitVec sz.bits) :
    ∃ g, s.writeReg sz r v = { s with gpr := g } := by
  cases sz with
  | b => simp only [State.writeReg]; split <;> exact ⟨_, rfl⟩
  | w => exact ⟨_, rfl⟩
  | d => exact ⟨_, rfl⟩

theorem Accessed.place {s t : State} (h : Accessed s t) (sz : Sz) (l : Loc) (v : BitVec sz.bits) :
    Kept s (t.place sz l v) l.bytes := by
  cases l with
  | reg r =>
    obtain ⟨g, e⟩ := writeReg_mem t sz r v
    simp only [State.place, e]
    exact h.kept.of_eq rfl rfl rfl
  | mem as => exact h.store _ _

theorem physWrite8_freed (u : State) (e : Word32) (d a : Nat) (v : Byte) :
    physWrite8 (u.freed e d) a v = (physWrite8 u a v).freed e d := by
  have hr : apicRead (u.freed e d) a = apicRead u a := rfl
  have hs : (u.freed e d).storable a = u.storable a := rfl
  unfold physWrite8
  rw [hr, hs]
  repeat' split
  all_goals rfl

theorem physWriteBytes_freed (as : List Nat) (u : State) (e : Word32) (d v : Nat) :
    physWriteBytes (u.freed e d) v as = (physWriteBytes u v as).freed e d := by
  induction as generalizing u v with
  | nil => rfl
  | cons a rest ih => simp only [physWriteBytes, physWrite8_freed, ih]

theorem message_freed (u : State) (e : Word32) (d : Nat) (address data : Word32) (ext : Byte) :
    (u.freed e d).message address data ext = (u.message address data ext).freed e d := by
  unfold State.message
  dsimp only
  repeat' split
  all_goals rfl

theorem physWriteNat_freed (as : List Nat) (u : State) (e : Word32) (d v : Nat) :
    physWriteNat (u.freed e d) v as = (physWriteNat u v as).freed e d := by
  unfold physWriteNat
  split
  · exact message_freed _ _ _ _ _ _
  · exact physWriteBytes_freed _ _ _ _ _

theorem writeReg_freed (u : State) (e : Word32) (d : Nat) (sz : Sz) (r : RegNum) (v : BitVec sz.bits) :
    (u.freed e d).writeReg sz r v = (u.writeReg sz r v).freed e d := by
  cases sz with
  | b => simp only [State.writeReg]; split <;> rfl
  | w => rfl
  | d => rfl

theorem place_freed (u : State) (e : Word32) (d : Nat) (sz : Sz) (l : Loc) (v : BitVec sz.bits) :
    (u.freed e d).place sz l v = (u.place sz l v).freed e d := by
  cases l with
  | reg r => exact writeReg_freed _ _ _ _ _ _
  | mem as => exact physWriteNat_freed _ _ _ _ _

end Sys2Proof.Machine
end

