-- ==== Sys2Proof/Laws/State.lean ====
section
/-! SUPPORT. What each update of the state does to each field: one lemma per field per update, so that no proof unfolds a
record update. -/
namespace Sys2Proof.Machine

/-! ### setFlag -/
@[simp] theorem State.setFlag_gpr (s : State) (i : Nat) (v : Bool) : (s.setFlag i v).gpr = s.gpr := rfl
@[simp] theorem State.setFlag_eip (s : State) (i : Nat) (v : Bool) : (s.setFlag i v).eip = s.eip := rfl
@[simp] theorem State.setFlag_eflags (s : State) (i : Nat) (v : Bool) : (s.setFlag i v).eflags = setBit s.eflags i v := rfl
@[simp] theorem State.setFlag_es (s : State) (i : Nat) (v : Bool) : (s.setFlag i v).es = s.es := rfl
@[simp] theorem State.setFlag_cs (s : State) (i : Nat) (v : Bool) : (s.setFlag i v).cs = s.cs := rfl
@[simp] theorem State.setFlag_ss (s : State) (i : Nat) (v : Bool) : (s.setFlag i v).ss = s.ss := rfl
@[simp] theorem State.setFlag_ds (s : State) (i : Nat) (v : Bool) : (s.setFlag i v).ds = s.ds := rfl
@[simp] theorem State.setFlag_fs (s : State) (i : Nat) (v : Bool) : (s.setFlag i v).fs = s.fs := rfl
@[simp] theorem State.setFlag_gs (s : State) (i : Nat) (v : Bool) : (s.setFlag i v).gs = s.gs := rfl
@[simp] theorem State.setFlag_cpl (s : State) (i : Nat) (v : Bool) : (s.setFlag i v).cpl = s.cpl := rfl
@[simp] theorem State.setFlag_gdtr (s : State) (i : Nat) (v : Bool) : (s.setFlag i v).gdtr = s.gdtr := rfl
@[simp] theorem State.setFlag_idtr (s : State) (i : Nat) (v : Bool) : (s.setFlag i v).idtr = s.idtr := rfl
@[simp] theorem State.setFlag_ldtr (s : State) (i : Nat) (v : Bool) : (s.setFlag i v).ldtr = s.ldtr := rfl
@[simp] theorem State.setFlag_tr (s : State) (i : Nat) (v : Bool) : (s.setFlag i v).tr = s.tr := rfl
@[simp] theorem State.setFlag_cr0 (s : State) (i : Nat) (v : Bool) : (s.setFlag i v).cr0 = s.cr0 := rfl
@[simp] theorem State.setFlag_cr2 (s : State) (i : Nat) (v : Bool) : (s.setFlag i v).cr2 = s.cr2 := rfl
@[simp] theorem State.setFlag_cr3 (s : State) (i : Nat) (v : Bool) : (s.setFlag i v).cr3 = s.cr3 := rfl
@[simp] theorem State.setFlag_cr4 (s : State) (i : Nat) (v : Bool) : (s.setFlag i v).cr4 = s.cr4 := rfl
@[simp] theorem State.setFlag_pdpte (s : State) (i : Nat) (v : Bool) : (s.setFlag i v).pdpte = s.pdpte := rfl
@[simp] theorem State.setFlag_dr0 (s : State) (i : Nat) (v : Bool) : (s.setFlag i v).dr0 = s.dr0 := rfl
@[simp] theorem State.setFlag_dr1 (s : State) (i : Nat) (v : Bool) : (s.setFlag i v).dr1 = s.dr1 := rfl
@[simp] theorem State.setFlag_dr2 (s : State) (i : Nat) (v : Bool) : (s.setFlag i v).dr2 = s.dr2 := rfl
@[simp] theorem State.setFlag_dr3 (s : State) (i : Nat) (v : Bool) : (s.setFlag i v).dr3 = s.dr3 := rfl
@[simp] theorem State.setFlag_dr6 (s : State) (i : Nat) (v : Bool) : (s.setFlag i v).dr6 = s.dr6 := rfl
@[simp] theorem State.setFlag_dr7 (s : State) (i : Nat) (v : Bool) : (s.setFlag i v).dr7 = s.dr7 := rfl
@[simp] theorem State.setFlag_fpu (s : State) (i : Nat) (v : Bool) : (s.setFlag i v).fpu = s.fpu := rfl
@[simp] theorem State.setFlag_xmm (s : State) (i : Nat) (v : Bool) : (s.setFlag i v).xmm = s.xmm := rfl
@[simp] theorem State.setFlag_mxcsr (s : State) (i : Nat) (v : Bool) : (s.setFlag i v).mxcsr = s.mxcsr := rfl
@[simp] theorem State.setFlag_activity (s : State) (i : Nat) (v : Bool) : (s.setFlag i v).activity = s.activity := rfl
@[simp] theorem State.setFlag_monitor (s : State) (i : Nat) (v : Bool) : (s.setFlag i v).monitor = s.monitor := rfl
@[simp] theorem State.setFlag_ssShadow (s : State) (i : Nat) (v : Bool) : (s.setFlag i v).ssShadow = s.ssShadow := rfl
@[simp] theorem State.setFlag_stiShadow (s : State) (i : Nat) (v : Bool) : (s.setFlag i v).stiShadow = s.stiShadow := rfl
@[simp] theorem State.setFlag_nmiBlocked (s : State) (i : Nat) (v : Bool) : (s.setFlag i v).nmiBlocked = s.nmiBlocked := rfl
@[simp] theorem State.setFlag_traps (s : State) (i : Nat) (v : Bool) : (s.setFlag i v).traps = s.traps := rfl
@[simp] theorem State.setFlag_msr (s : State) (i : Nat) (v : Bool) : (s.setFlag i v).msr = s.msr := rfl
@[simp] theorem State.setFlag_apic (s : State) (i : Nat) (v : Bool) : (s.setFlag i v).apic = s.apic := rfl
@[simp] theorem State.setFlag_tlb (s : State) (i : Nat) (v : Bool) : (s.setFlag i v).tlb = s.tlb := rfl
@[simp] theorem State.setFlag_inSmm (s : State) (i : Nat) (v : Bool) : (s.setFlag i v).inSmm = s.inSmm := rfl
@[simp] theorem State.setFlag_smbase (s : State) (i : Nat) (v : Bool) : (s.setFlag i v).smbase = s.smbase := rfl
@[simp] theorem State.setFlag_smmDump (s : State) (i : Nat) (v : Bool) : (s.setFlag i v).smmDump = s.smmDump := rfl
@[simp] theorem State.setFlag_smmRestart (s : State) (i : Nat) (v : Bool) : (s.setFlag i v).smmRestart = s.smmRestart := rfl
@[simp] theorem State.setFlag_ucode (s : State) (i : Nat) (v : Bool) : (s.setFlag i v).ucode = s.ucode := rfl
@[simp] theorem State.setFlag_pending (s : State) (i : Nat) (v : Bool) : (s.setFlag i v).pending = s.pending := rfl
@[simp] theorem State.setFlag_mem (s : State) (i : Nat) (v : Bool) : (s.setFlag i v).mem = s.mem := rfl
@[simp] theorem State.setFlag_adMarks (s : State) (i : Nat) (v : Bool) : (s.setFlag i v).adMarks = s.adMarks := rfl
@[simp] theorem State.setFlag_draws (s : State) (i : Nat) (v : Bool) : (s.setFlag i v).draws = s.draws := rfl
@[simp] theorem State.setFlag_cur (s : State) (i : Nat) (v : Bool) : (s.setFlag i v).cur = s.cur := rfl
@[simp] theorem State.setFlag_repBusy (s : State) (i : Nat) (v : Bool) : (s.setFlag i v).repBusy = s.repBusy := rfl
@[simp] theorem State.setFlag_redeliver (s : State) (i : Nat) (v : Bool) : (s.setFlag i v).redeliver = s.redeliver := rfl
@[simp] theorem State.setFlag_lastIo (s : State) (i : Nat) (v : Bool) : (s.setFlag i v).lastIo = s.lastIo := rfl
@[simp] theorem State.setFlag_ioOut (s : State) (i : Nat) (v : Bool) : (s.setFlag i v).ioOut = s.ioOut := rfl

/-! ### setReg32 -/
@[simp] theorem State.setReg32_gpr (s : State) (r : RegNum) (v : Word32) : (s.setReg32 r v).gpr = s.gpr.set r v := rfl
@[simp] theorem State.setReg32_eip (s : State) (r : RegNum) (v : Word32) : (s.setReg32 r v).eip = s.eip := rfl
@[simp] theorem State.setReg32_eflags (s : State) (r : RegNum) (v : Word32) : (s.setReg32 r v).eflags = s.eflags := rfl
@[simp] theorem State.setReg32_es (s : State) (r : RegNum) (v : Word32) : (s.setReg32 r v).es = s.es := rfl
@[simp] theorem State.setReg32_cs (s : State) (r : RegNum) (v : Word32) : (s.setReg32 r v).cs = s.cs := rfl
@[simp] theorem State.setReg32_ss (s : State) (r : RegNum) (v : Word32) : (s.setReg32 r v).ss = s.ss := rfl
@[simp] theorem State.setReg32_ds (s : State) (r : RegNum) (v : Word32) : (s.setReg32 r v).ds = s.ds := rfl
@[simp] theorem State.setReg32_fs (s : State) (r : RegNum) (v : Word32) : (s.setReg32 r v).fs = s.fs := rfl
@[simp] theorem State.setReg32_gs (s : State) (r : RegNum) (v : Word32) : (s.setReg32 r v).gs = s.gs := rfl
@[simp] theorem State.setReg32_cpl (s : State) (r : RegNum) (v : Word32) : (s.setReg32 r v).cpl = s.cpl := rfl
@[simp] theorem State.setReg32_gdtr (s : State) (r : RegNum) (v : Word32) : (s.setReg32 r v).gdtr = s.gdtr := rfl
@[simp] theorem State.setReg32_idtr (s : State) (r : RegNum) (v : Word32) : (s.setReg32 r v).idtr = s.idtr := rfl
@[simp] theorem State.setReg32_ldtr (s : State) (r : RegNum) (v : Word32) : (s.setReg32 r v).ldtr = s.ldtr := rfl
@[simp] theorem State.setReg32_tr (s : State) (r : RegNum) (v : Word32) : (s.setReg32 r v).tr = s.tr := rfl
@[simp] theorem State.setReg32_cr0 (s : State) (r : RegNum) (v : Word32) : (s.setReg32 r v).cr0 = s.cr0 := rfl
@[simp] theorem State.setReg32_cr2 (s : State) (r : RegNum) (v : Word32) : (s.setReg32 r v).cr2 = s.cr2 := rfl
@[simp] theorem State.setReg32_cr3 (s : State) (r : RegNum) (v : Word32) : (s.setReg32 r v).cr3 = s.cr3 := rfl
@[simp] theorem State.setReg32_cr4 (s : State) (r : RegNum) (v : Word32) : (s.setReg32 r v).cr4 = s.cr4 := rfl
@[simp] theorem State.setReg32_pdpte (s : State) (r : RegNum) (v : Word32) : (s.setReg32 r v).pdpte = s.pdpte := rfl
@[simp] theorem State.setReg32_dr0 (s : State) (r : RegNum) (v : Word32) : (s.setReg32 r v).dr0 = s.dr0 := rfl
@[simp] theorem State.setReg32_dr1 (s : State) (r : RegNum) (v : Word32) : (s.setReg32 r v).dr1 = s.dr1 := rfl
@[simp] theorem State.setReg32_dr2 (s : State) (r : RegNum) (v : Word32) : (s.setReg32 r v).dr2 = s.dr2 := rfl
@[simp] theorem State.setReg32_dr3 (s : State) (r : RegNum) (v : Word32) : (s.setReg32 r v).dr3 = s.dr3 := rfl
@[simp] theorem State.setReg32_dr6 (s : State) (r : RegNum) (v : Word32) : (s.setReg32 r v).dr6 = s.dr6 := rfl
@[simp] theorem State.setReg32_dr7 (s : State) (r : RegNum) (v : Word32) : (s.setReg32 r v).dr7 = s.dr7 := rfl
@[simp] theorem State.setReg32_fpu (s : State) (r : RegNum) (v : Word32) : (s.setReg32 r v).fpu = s.fpu := rfl
@[simp] theorem State.setReg32_xmm (s : State) (r : RegNum) (v : Word32) : (s.setReg32 r v).xmm = s.xmm := rfl
@[simp] theorem State.setReg32_mxcsr (s : State) (r : RegNum) (v : Word32) : (s.setReg32 r v).mxcsr = s.mxcsr := rfl
@[simp] theorem State.setReg32_activity (s : State) (r : RegNum) (v : Word32) : (s.setReg32 r v).activity = s.activity := rfl
@[simp] theorem State.setReg32_monitor (s : State) (r : RegNum) (v : Word32) : (s.setReg32 r v).monitor = s.monitor := rfl
@[simp] theorem State.setReg32_ssShadow (s : State) (r : RegNum) (v : Word32) : (s.setReg32 r v).ssShadow = s.ssShadow := rfl
@[simp] theorem State.setReg32_stiShadow (s : State) (r : RegNum) (v : Word32) : (s.setReg32 r v).stiShadow = s.stiShadow := rfl
@[simp] theorem State.setReg32_nmiBlocked (s : State) (r : RegNum) (v : Word32) : (s.setReg32 r v).nmiBlocked = s.nmiBlocked := rfl
@[simp] theorem State.setReg32_traps (s : State) (r : RegNum) (v : Word32) : (s.setReg32 r v).traps = s.traps := rfl
@[simp] theorem State.setReg32_msr (s : State) (r : RegNum) (v : Word32) : (s.setReg32 r v).msr = s.msr := rfl
@[simp] theorem State.setReg32_apic (s : State) (r : RegNum) (v : Word32) : (s.setReg32 r v).apic = s.apic := rfl
@[simp] theorem State.setReg32_tlb (s : State) (r : RegNum) (v : Word32) : (s.setReg32 r v).tlb = s.tlb := rfl
@[simp] theorem State.setReg32_inSmm (s : State) (r : RegNum) (v : Word32) : (s.setReg32 r v).inSmm = s.inSmm := rfl
@[simp] theorem State.setReg32_smbase (s : State) (r : RegNum) (v : Word32) : (s.setReg32 r v).smbase = s.smbase := rfl
@[simp] theorem State.setReg32_smmDump (s : State) (r : RegNum) (v : Word32) : (s.setReg32 r v).smmDump = s.smmDump := rfl
@[simp] theorem State.setReg32_smmRestart (s : State) (r : RegNum) (v : Word32) : (s.setReg32 r v).smmRestart = s.smmRestart := rfl
@[simp] theorem State.setReg32_ucode (s : State) (r : RegNum) (v : Word32) : (s.setReg32 r v).ucode = s.ucode := rfl
@[simp] theorem State.setReg32_pending (s : State) (r : RegNum) (v : Word32) : (s.setReg32 r v).pending = s.pending := rfl
@[simp] theorem State.setReg32_mem (s : State) (r : RegNum) (v : Word32) : (s.setReg32 r v).mem = s.mem := rfl
@[simp] theorem State.setReg32_adMarks (s : State) (r : RegNum) (v : Word32) : (s.setReg32 r v).adMarks = s.adMarks := rfl
@[simp] theorem State.setReg32_draws (s : State) (r : RegNum) (v : Word32) : (s.setReg32 r v).draws = s.draws := rfl
@[simp] theorem State.setReg32_cur (s : State) (r : RegNum) (v : Word32) : (s.setReg32 r v).cur = s.cur := rfl
@[simp] theorem State.setReg32_repBusy (s : State) (r : RegNum) (v : Word32) : (s.setReg32 r v).repBusy = s.repBusy := rfl
@[simp] theorem State.setReg32_redeliver (s : State) (r : RegNum) (v : Word32) : (s.setReg32 r v).redeliver = s.redeliver := rfl
@[simp] theorem State.setReg32_lastIo (s : State) (r : RegNum) (v : Word32) : (s.setReg32 r v).lastIo = s.lastIo := rfl
@[simp] theorem State.setReg32_ioOut (s : State) (r : RegNum) (v : Word32) : (s.setReg32 r v).ioOut = s.ioOut := rfl

/-! ### setXmm -/
@[simp] theorem State.setXmm_gpr (s : State) (r : RegNum) (v : Word128) : (s.setXmm r v).gpr = s.gpr := rfl
@[simp] theorem State.setXmm_eip (s : State) (r : RegNum) (v : Word128) : (s.setXmm r v).eip = s.eip := rfl
@[simp] theorem State.setXmm_eflags (s : State) (r : RegNum) (v : Word128) : (s.setXmm r v).eflags = s.eflags := rfl
@[simp] theorem State.setXmm_es (s : State) (r : RegNum) (v : Word128) : (s.setXmm r v).es = s.es := rfl
@[simp] theorem State.setXmm_cs (s : State) (r : RegNum) (v : Word128) : (s.setXmm r v).cs = s.cs := rfl
@[simp] theorem State.setXmm_ss (s : State) (r : RegNum) (v : Word128) : (s.setXmm r v).ss = s.ss := rfl
@[simp] theorem State.setXmm_ds (s : State) (r : RegNum) (v : Word128) : (s.setXmm r v).ds = s.ds := rfl
@[simp] theorem State.setXmm_fs (s : State) (r : RegNum) (v : Word128) : (s.setXmm r v).fs = s.fs := rfl
@[simp] theorem State.setXmm_gs (s : State) (r : RegNum) (v : Word128) : (s.setXmm r v).gs = s.gs := rfl
@[simp] theorem State.setXmm_cpl (s : State) (r : RegNum) (v : Word128) : (s.setXmm r v).cpl = s.cpl := rfl
@[simp] theorem State.setXmm_gdtr (s : State) (r : RegNum) (v : Word128) : (s.setXmm r v).gdtr = s.gdtr := rfl
@[simp] theorem State.setXmm_idtr (s : State) (r : RegNum) (v : Word128) : (s.setXmm r v).idtr = s.idtr := rfl
@[simp] theorem State.setXmm_ldtr (s : State) (r : RegNum) (v : Word128) : (s.setXmm r v).ldtr = s.ldtr := rfl
@[simp] theorem State.setXmm_tr (s : State) (r : RegNum) (v : Word128) : (s.setXmm r v).tr = s.tr := rfl
@[simp] theorem State.setXmm_cr0 (s : State) (r : RegNum) (v : Word128) : (s.setXmm r v).cr0 = s.cr0 := rfl
@[simp] theorem State.setXmm_cr2 (s : State) (r : RegNum) (v : Word128) : (s.setXmm r v).cr2 = s.cr2 := rfl
@[simp] theorem State.setXmm_cr3 (s : State) (r : RegNum) (v : Word128) : (s.setXmm r v).cr3 = s.cr3 := rfl
@[simp] theorem State.setXmm_cr4 (s : State) (r : RegNum) (v : Word128) : (s.setXmm r v).cr4 = s.cr4 := rfl
@[simp] theorem State.setXmm_pdpte (s : State) (r : RegNum) (v : Word128) : (s.setXmm r v).pdpte = s.pdpte := rfl
@[simp] theorem State.setXmm_dr0 (s : State) (r : RegNum) (v : Word128) : (s.setXmm r v).dr0 = s.dr0 := rfl
@[simp] theorem State.setXmm_dr1 (s : State) (r : RegNum) (v : Word128) : (s.setXmm r v).dr1 = s.dr1 := rfl
@[simp] theorem State.setXmm_dr2 (s : State) (r : RegNum) (v : Word128) : (s.setXmm r v).dr2 = s.dr2 := rfl
@[simp] theorem State.setXmm_dr3 (s : State) (r : RegNum) (v : Word128) : (s.setXmm r v).dr3 = s.dr3 := rfl
@[simp] theorem State.setXmm_dr6 (s : State) (r : RegNum) (v : Word128) : (s.setXmm r v).dr6 = s.dr6 := rfl
@[simp] theorem State.setXmm_dr7 (s : State) (r : RegNum) (v : Word128) : (s.setXmm r v).dr7 = s.dr7 := rfl
@[simp] theorem State.setXmm_fpu (s : State) (r : RegNum) (v : Word128) : (s.setXmm r v).fpu = s.fpu := rfl
@[simp] theorem State.setXmm_xmm (s : State) (r : RegNum) (v : Word128) : (s.setXmm r v).xmm = s.xmm.set r v := rfl
@[simp] theorem State.setXmm_mxcsr (s : State) (r : RegNum) (v : Word128) : (s.setXmm r v).mxcsr = s.mxcsr := rfl
@[simp] theorem State.setXmm_activity (s : State) (r : RegNum) (v : Word128) : (s.setXmm r v).activity = s.activity := rfl
@[simp] theorem State.setXmm_monitor (s : State) (r : RegNum) (v : Word128) : (s.setXmm r v).monitor = s.monitor := rfl
@[simp] theorem State.setXmm_ssShadow (s : State) (r : RegNum) (v : Word128) : (s.setXmm r v).ssShadow = s.ssShadow := rfl
@[simp] theorem State.setXmm_stiShadow (s : State) (r : RegNum) (v : Word128) : (s.setXmm r v).stiShadow = s.stiShadow := rfl
@[simp] theorem State.setXmm_nmiBlocked (s : State) (r : RegNum) (v : Word128) : (s.setXmm r v).nmiBlocked = s.nmiBlocked := rfl
@[simp] theorem State.setXmm_traps (s : State) (r : RegNum) (v : Word128) : (s.setXmm r v).traps = s.traps := rfl
@[simp] theorem State.setXmm_msr (s : State) (r : RegNum) (v : Word128) : (s.setXmm r v).msr = s.msr := rfl
@[simp] theorem State.setXmm_apic (s : State) (r : RegNum) (v : Word128) : (s.setXmm r v).apic = s.apic := rfl
@[simp] theorem State.setXmm_tlb (s : State) (r : RegNum) (v : Word128) : (s.setXmm r v).tlb = s.tlb := rfl
@[simp] theorem State.setXmm_inSmm (s : State) (r : RegNum) (v : Word128) : (s.setXmm r v).inSmm = s.inSmm := rfl
@[simp] theorem State.setXmm_smbase (s : State) (r : RegNum) (v : Word128) : (s.setXmm r v).smbase = s.smbase := rfl
@[simp] theorem State.setXmm_smmDump (s : State) (r : RegNum) (v : Word128) : (s.setXmm r v).smmDump = s.smmDump := rfl
@[simp] theorem State.setXmm_smmRestart (s : State) (r : RegNum) (v : Word128) : (s.setXmm r v).smmRestart = s.smmRestart := rfl
@[simp] theorem State.setXmm_ucode (s : State) (r : RegNum) (v : Word128) : (s.setXmm r v).ucode = s.ucode := rfl
@[simp] theorem State.setXmm_pending (s : State) (r : RegNum) (v : Word128) : (s.setXmm r v).pending = s.pending := rfl
@[simp] theorem State.setXmm_mem (s : State) (r : RegNum) (v : Word128) : (s.setXmm r v).mem = s.mem := rfl
@[simp] theorem State.setXmm_adMarks (s : State) (r : RegNum) (v : Word128) : (s.setXmm r v).adMarks = s.adMarks := rfl
@[simp] theorem State.setXmm_draws (s : State) (r : RegNum) (v : Word128) : (s.setXmm r v).draws = s.draws := rfl
@[simp] theorem State.setXmm_cur (s : State) (r : RegNum) (v : Word128) : (s.setXmm r v).cur = s.cur := rfl
@[simp] theorem State.setXmm_repBusy (s : State) (r : RegNum) (v : Word128) : (s.setXmm r v).repBusy = s.repBusy := rfl
@[simp] theorem State.setXmm_redeliver (s : State) (r : RegNum) (v : Word128) : (s.setXmm r v).redeliver = s.redeliver := rfl
@[simp] theorem State.setXmm_lastIo (s : State) (r : RegNum) (v : Word128) : (s.setXmm r v).lastIo = s.lastIo := rfl
@[simp] theorem State.setXmm_ioOut (s : State) (r : RegNum) (v : Word128) : (s.setXmm r v).ioOut = s.ioOut := rfl

/-! ### setMm -/
@[simp] theorem State.setMm_gpr (s : State) (r : RegNum) (v : Word64) : (s.setMm r v).gpr = s.gpr := rfl
@[simp] theorem State.setMm_eip (s : State) (r : RegNum) (v : Word64) : (s.setMm r v).eip = s.eip := rfl
@[simp] theorem State.setMm_eflags (s : State) (r : RegNum) (v : Word64) : (s.setMm r v).eflags = s.eflags := rfl
@[simp] theorem State.setMm_es (s : State) (r : RegNum) (v : Word64) : (s.setMm r v).es = s.es := rfl
@[simp] theorem State.setMm_cs (s : State) (r : RegNum) (v : Word64) : (s.setMm r v).cs = s.cs := rfl
@[simp] theorem State.setMm_ss (s : State) (r : RegNum) (v : Word64) : (s.setMm r v).ss = s.ss := rfl
@[simp] theorem State.setMm_ds (s : State) (r : RegNum) (v : Word64) : (s.setMm r v).ds = s.ds := rfl
@[simp] theorem State.setMm_fs (s : State) (r : RegNum) (v : Word64) : (s.setMm r v).fs = s.fs := rfl
@[simp] theorem State.setMm_gs (s : State) (r : RegNum) (v : Word64) : (s.setMm r v).gs = s.gs := rfl
@[simp] theorem State.setMm_cpl (s : State) (r : RegNum) (v : Word64) : (s.setMm r v).cpl = s.cpl := rfl
@[simp] theorem State.setMm_gdtr (s : State) (r : RegNum) (v : Word64) : (s.setMm r v).gdtr = s.gdtr := rfl
@[simp] theorem State.setMm_idtr (s : State) (r : RegNum) (v : Word64) : (s.setMm r v).idtr = s.idtr := rfl
@[simp] theorem State.setMm_ldtr (s : State) (r : RegNum) (v : Word64) : (s.setMm r v).ldtr = s.ldtr := rfl
@[simp] theorem State.setMm_tr (s : State) (r : RegNum) (v : Word64) : (s.setMm r v).tr = s.tr := rfl
@[simp] theorem State.setMm_cr0 (s : State) (r : RegNum) (v : Word64) : (s.setMm r v).cr0 = s.cr0 := rfl
@[simp] theorem State.setMm_cr2 (s : State) (r : RegNum) (v : Word64) : (s.setMm r v).cr2 = s.cr2 := rfl
@[simp] theorem State.setMm_cr3 (s : State) (r : RegNum) (v : Word64) : (s.setMm r v).cr3 = s.cr3 := rfl
@[simp] theorem State.setMm_cr4 (s : State) (r : RegNum) (v : Word64) : (s.setMm r v).cr4 = s.cr4 := rfl
@[simp] theorem State.setMm_pdpte (s : State) (r : RegNum) (v : Word64) : (s.setMm r v).pdpte = s.pdpte := rfl
@[simp] theorem State.setMm_dr0 (s : State) (r : RegNum) (v : Word64) : (s.setMm r v).dr0 = s.dr0 := rfl
@[simp] theorem State.setMm_dr1 (s : State) (r : RegNum) (v : Word64) : (s.setMm r v).dr1 = s.dr1 := rfl
@[simp] theorem State.setMm_dr2 (s : State) (r : RegNum) (v : Word64) : (s.setMm r v).dr2 = s.dr2 := rfl
@[simp] theorem State.setMm_dr3 (s : State) (r : RegNum) (v : Word64) : (s.setMm r v).dr3 = s.dr3 := rfl
@[simp] theorem State.setMm_dr6 (s : State) (r : RegNum) (v : Word64) : (s.setMm r v).dr6 = s.dr6 := rfl
@[simp] theorem State.setMm_dr7 (s : State) (r : RegNum) (v : Word64) : (s.setMm r v).dr7 = s.dr7 := rfl
@[simp] theorem State.setMm_fpu (s : State) (r : RegNum) (v : Word64) : (s.setMm r v).fpu = { s.fpu with regs := s.fpu.regs.set r (0xFFFF#16 ++ v) } := rfl
@[simp] theorem State.setMm_xmm (s : State) (r : RegNum) (v : Word64) : (s.setMm r v).xmm = s.xmm := rfl
@[simp] theorem State.setMm_mxcsr (s : State) (r : RegNum) (v : Word64) : (s.setMm r v).mxcsr = s.mxcsr := rfl
@[simp] theorem State.setMm_activity (s : State) (r : RegNum) (v : Word64) : (s.setMm r v).activity = s.activity := rfl
@[simp] theorem State.setMm_monitor (s : State) (r : RegNum) (v : Word64) : (s.setMm r v).monitor = s.monitor := rfl
@[simp] theorem State.setMm_ssShadow (s : State) (r : RegNum) (v : Word64) : (s.setMm r v).ssShadow = s.ssShadow := rfl
@[simp] theorem State.setMm_stiShadow (s : State) (r : RegNum) (v : Word64) : (s.setMm r v).stiShadow = s.stiShadow := rfl
@[simp] theorem State.setMm_nmiBlocked (s : State) (r : RegNum) (v : Word64) : (s.setMm r v).nmiBlocked = s.nmiBlocked := rfl
@[simp] theorem State.setMm_traps (s : State) (r : RegNum) (v : Word64) : (s.setMm r v).traps = s.traps := rfl
@[simp] theorem State.setMm_msr (s : State) (r : RegNum) (v : Word64) : (s.setMm r v).msr = s.msr := rfl
@[simp] theorem State.setMm_apic (s : State) (r : RegNum) (v : Word64) : (s.setMm r v).apic = s.apic := rfl
@[simp] theorem State.setMm_tlb (s : State) (r : RegNum) (v : Word64) : (s.setMm r v).tlb = s.tlb := rfl
@[simp] theorem State.setMm_inSmm (s : State) (r : RegNum) (v : Word64) : (s.setMm r v).inSmm = s.inSmm := rfl
@[simp] theorem State.setMm_smbase (s : State) (r : RegNum) (v : Word64) : (s.setMm r v).smbase = s.smbase := rfl
@[simp] theorem State.setMm_smmDump (s : State) (r : RegNum) (v : Word64) : (s.setMm r v).smmDump = s.smmDump := rfl
@[simp] theorem State.setMm_smmRestart (s : State) (r : RegNum) (v : Word64) : (s.setMm r v).smmRestart = s.smmRestart := rfl
@[simp] theorem State.setMm_ucode (s : State) (r : RegNum) (v : Word64) : (s.setMm r v).ucode = s.ucode := rfl
@[simp] theorem State.setMm_pending (s : State) (r : RegNum) (v : Word64) : (s.setMm r v).pending = s.pending := rfl
@[simp] theorem State.setMm_mem (s : State) (r : RegNum) (v : Word64) : (s.setMm r v).mem = s.mem := rfl
@[simp] theorem State.setMm_adMarks (s : State) (r : RegNum) (v : Word64) : (s.setMm r v).adMarks = s.adMarks := rfl
@[simp] theorem State.setMm_draws (s : State) (r : RegNum) (v : Word64) : (s.setMm r v).draws = s.draws := rfl
@[simp] theorem State.setMm_cur (s : State) (r : RegNum) (v : Word64) : (s.setMm r v).cur = s.cur := rfl
@[simp] theorem State.setMm_repBusy (s : State) (r : RegNum) (v : Word64) : (s.setMm r v).repBusy = s.repBusy := rfl
@[simp] theorem State.setMm_redeliver (s : State) (r : RegNum) (v : Word64) : (s.setMm r v).redeliver = s.redeliver := rfl
@[simp] theorem State.setMm_lastIo (s : State) (r : RegNum) (v : Word64) : (s.setMm r v).lastIo = s.lastIo := rfl
@[simp] theorem State.setMm_ioOut (s : State) (r : RegNum) (v : Word64) : (s.setMm r v).ioOut = s.ioOut := rfl

/-! ### begin -/
@[simp] theorem State.begin_gpr (s : State) : (s.begin).gpr = s.gpr := rfl
@[simp] theorem State.begin_eip (s : State) : (s.begin).eip = s.eip := rfl
@[simp] theorem State.begin_eflags (s : State) : (s.begin).eflags = s.eflags := rfl
@[simp] theorem State.begin_es (s : State) : (s.begin).es = s.es := rfl
@[simp] theorem State.begin_cs (s : State) : (s.begin).cs = s.cs := rfl
@[simp] theorem State.begin_ss (s : State) : (s.begin).ss = s.ss := rfl
@[simp] theorem State.begin_ds (s : State) : (s.begin).ds = s.ds := rfl
@[simp] theorem State.begin_fs (s : State) : (s.begin).fs = s.fs := rfl
@[simp] theorem State.begin_gs (s : State) : (s.begin).gs = s.gs := rfl
@[simp] theorem State.begin_cpl (s : State) : (s.begin).cpl = s.cpl := rfl
@[simp] theorem State.begin_gdtr (s : State) : (s.begin).gdtr = s.gdtr := rfl
@[simp] theorem State.begin_idtr (s : State) : (s.begin).idtr = s.idtr := rfl
@[simp] theorem State.begin_ldtr (s : State) : (s.begin).ldtr = s.ldtr := rfl
@[simp] theorem State.begin_tr (s : State) : (s.begin).tr = s.tr := rfl
@[simp] theorem State.begin_cr0 (s : State) : (s.begin).cr0 = s.cr0 := rfl
@[simp] theorem State.begin_cr2 (s : State) : (s.begin).cr2 = s.cr2 := rfl
@[simp] theorem State.begin_cr3 (s : State) : (s.begin).cr3 = s.cr3 := rfl
@[simp] theorem State.begin_cr4 (s : State) : (s.begin).cr4 = s.cr4 := rfl
@[simp] theorem State.begin_pdpte (s : State) : (s.begin).pdpte = s.pdpte := rfl
@[simp] theorem State.begin_dr0 (s : State) : (s.begin).dr0 = s.dr0 := rfl
@[simp] theorem State.begin_dr1 (s : State) : (s.begin).dr1 = s.dr1 := rfl
@[simp] theorem State.begin_dr2 (s : State) : (s.begin).dr2 = s.dr2 := rfl
@[simp] theorem State.begin_dr3 (s : State) : (s.begin).dr3 = s.dr3 := rfl
@[simp] theorem State.begin_dr6 (s : State) : (s.begin).dr6 = s.dr6 := rfl
@[simp] theorem State.begin_dr7 (s : State) : (s.begin).dr7 = s.dr7 := rfl
@[simp] theorem State.begin_fpu (s : State) : (s.begin).fpu = s.fpu := rfl
@[simp] theorem State.begin_xmm (s : State) : (s.begin).xmm = s.xmm := rfl
@[simp] theorem State.begin_mxcsr (s : State) : (s.begin).mxcsr = s.mxcsr := rfl
@[simp] theorem State.begin_activity (s : State) : (s.begin).activity = s.activity := rfl
@[simp] theorem State.begin_monitor (s : State) : (s.begin).monitor = s.monitor := rfl
@[simp] theorem State.begin_ssShadow (s : State) : (s.begin).ssShadow = false := rfl
@[simp] theorem State.begin_stiShadow (s : State) : (s.begin).stiShadow = false := rfl
@[simp] theorem State.begin_nmiBlocked (s : State) : (s.begin).nmiBlocked = s.nmiBlocked := rfl
@[simp] theorem State.begin_traps (s : State) : (s.begin).traps = s.traps := rfl
@[simp] theorem State.begin_msr (s : State) : (s.begin).msr = s.msr := rfl
@[simp] theorem State.begin_apic (s : State) : (s.begin).apic = s.apic := rfl
@[simp] theorem State.begin_tlb (s : State) : (s.begin).tlb = s.tlb := rfl
@[simp] theorem State.begin_inSmm (s : State) : (s.begin).inSmm = s.inSmm := rfl
@[simp] theorem State.begin_smbase (s : State) : (s.begin).smbase = s.smbase := rfl
@[simp] theorem State.begin_smmDump (s : State) : (s.begin).smmDump = s.smmDump := rfl
@[simp] theorem State.begin_smmRestart (s : State) : (s.begin).smmRestart = s.smmRestart := rfl
@[simp] theorem State.begin_ucode (s : State) : (s.begin).ucode = s.ucode := rfl
@[simp] theorem State.begin_pending (s : State) : (s.begin).pending = s.pending := rfl
@[simp] theorem State.begin_mem (s : State) : (s.begin).mem = s.mem := rfl
@[simp] theorem State.begin_adMarks (s : State) : (s.begin).adMarks = s.adMarks := rfl
@[simp] theorem State.begin_draws (s : State) : (s.begin).draws = s.draws := rfl
@[simp] theorem State.begin_cur (s : State) : (s.begin).cur = s.cur := rfl
@[simp] theorem State.begin_repBusy (s : State) : (s.begin).repBusy = false := rfl
@[simp] theorem State.begin_redeliver (s : State) : (s.begin).redeliver = s.redeliver := rfl
@[simp] theorem State.begin_lastIo (s : State) : (s.begin).lastIo = none := rfl
@[simp] theorem State.begin_ioOut (s : State) : (s.begin).ioOut = s.ioOut := rfl

/-! ### keepFrom -/
@[simp] theorem State.keepFrom_gpr (s t : State) : (s.keepFrom t).gpr = s.gpr := rfl
@[simp] theorem State.keepFrom_eip (s t : State) : (s.keepFrom t).eip = s.eip := rfl
@[simp] theorem State.keepFrom_eflags (s t : State) : (s.keepFrom t).eflags = s.eflags := rfl
@[simp] theorem State.keepFrom_es (s t : State) : (s.keepFrom t).es = s.es := rfl
@[simp] theorem State.keepFrom_cs (s t : State) : (s.keepFrom t).cs = s.cs := rfl
@[simp] theorem State.keepFrom_ss (s t : State) : (s.keepFrom t).ss = s.ss := rfl
@[simp] theorem State.keepFrom_ds (s t : State) : (s.keepFrom t).ds = s.ds := rfl
@[simp] theorem State.keepFrom_fs (s t : State) : (s.keepFrom t).fs = s.fs := rfl
@[simp] theorem State.keepFrom_gs (s t : State) : (s.keepFrom t).gs = s.gs := rfl
@[simp] theorem State.keepFrom_cpl (s t : State) : (s.keepFrom t).cpl = s.cpl := rfl
@[simp] theorem State.keepFrom_gdtr (s t : State) : (s.keepFrom t).gdtr = s.gdtr := rfl
@[simp] theorem State.keepFrom_idtr (s t : State) : (s.keepFrom t).idtr = s.idtr := rfl
@[simp] theorem State.keepFrom_ldtr (s t : State) : (s.keepFrom t).ldtr = s.ldtr := rfl
@[simp] theorem State.keepFrom_tr (s t : State) : (s.keepFrom t).tr = s.tr := rfl
@[simp] theorem State.keepFrom_cr0 (s t : State) : (s.keepFrom t).cr0 = s.cr0 := rfl
@[simp] theorem State.keepFrom_cr2 (s t : State) : (s.keepFrom t).cr2 = s.cr2 := rfl
@[simp] theorem State.keepFrom_cr3 (s t : State) : (s.keepFrom t).cr3 = s.cr3 := rfl
@[simp] theorem State.keepFrom_cr4 (s t : State) : (s.keepFrom t).cr4 = s.cr4 := rfl
@[simp] theorem State.keepFrom_pdpte (s t : State) : (s.keepFrom t).pdpte = s.pdpte := rfl
@[simp] theorem State.keepFrom_dr0 (s t : State) : (s.keepFrom t).dr0 = s.dr0 := rfl
@[simp] theorem State.keepFrom_dr1 (s t : State) : (s.keepFrom t).dr1 = s.dr1 := rfl
@[simp] theorem State.keepFrom_dr2 (s t : State) : (s.keepFrom t).dr2 = s.dr2 := rfl
@[simp] theorem State.keepFrom_dr3 (s t : State) : (s.keepFrom t).dr3 = s.dr3 := rfl
@[simp] theorem State.keepFrom_dr6 (s t : State) : (s.keepFrom t).dr6 = s.dr6 := rfl
@[simp] theorem State.keepFrom_dr7 (s t : State) : (s.keepFrom t).dr7 = s.dr7 := rfl
@[simp] theorem State.keepFrom_fpu (s t : State) : (s.keepFrom t).fpu = s.fpu := rfl
@[simp] theorem State.keepFrom_xmm (s t : State) : (s.keepFrom t).xmm = s.xmm := rfl
@[simp] theorem State.keepFrom_mxcsr (s t : State) : (s.keepFrom t).mxcsr = s.mxcsr := rfl
@[simp] theorem State.keepFrom_activity (s t : State) : (s.keepFrom t).activity = s.activity := rfl
@[simp] theorem State.keepFrom_monitor (s t : State) : (s.keepFrom t).monitor = s.monitor := rfl
@[simp] theorem State.keepFrom_ssShadow (s t : State) : (s.keepFrom t).ssShadow = s.ssShadow := rfl
@[simp] theorem State.keepFrom_stiShadow (s t : State) : (s.keepFrom t).stiShadow = s.stiShadow := rfl
@[simp] theorem State.keepFrom_nmiBlocked (s t : State) : (s.keepFrom t).nmiBlocked = s.nmiBlocked := rfl
@[simp] theorem State.keepFrom_traps (s t : State) : (s.keepFrom t).traps = s.traps := rfl
@[simp] theorem State.keepFrom_msr (s t : State) : (s.keepFrom t).msr = s.msr := rfl
@[simp] theorem State.keepFrom_apic (s t : State) : (s.keepFrom t).apic = t.apic := rfl
@[simp] theorem State.keepFrom_tlb (s t : State) : (s.keepFrom t).tlb = t.tlb := rfl
@[simp] theorem State.keepFrom_inSmm (s t : State) : (s.keepFrom t).inSmm = s.inSmm := rfl
@[simp] theorem State.keepFrom_smbase (s t : State) : (s.keepFrom t).smbase = s.smbase := rfl
@[simp] theorem State.keepFrom_smmDump (s t : State) : (s.keepFrom t).smmDump = s.smmDump := rfl
@[simp] theorem State.keepFrom_smmRestart (s t : State) : (s.keepFrom t).smmRestart = s.smmRestart := rfl
@[simp] theorem State.keepFrom_ucode (s t : State) : (s.keepFrom t).ucode = s.ucode := rfl
@[simp] theorem State.keepFrom_pending (s t : State) : (s.keepFrom t).pending = s.pending := rfl
@[simp] theorem State.keepFrom_mem (s t : State) : (s.keepFrom t).mem = t.mem := rfl
@[simp] theorem State.keepFrom_adMarks (s t : State) : (s.keepFrom t).adMarks = t.adMarks := rfl
@[simp] theorem State.keepFrom_draws (s t : State) : (s.keepFrom t).draws = t.draws := rfl
@[simp] theorem State.keepFrom_cur (s t : State) : (s.keepFrom t).cur = s.cur := rfl
@[simp] theorem State.keepFrom_repBusy (s t : State) : (s.keepFrom t).repBusy = s.repBusy := rfl
@[simp] theorem State.keepFrom_redeliver (s t : State) : (s.keepFrom t).redeliver = s.redeliver := rfl
@[simp] theorem State.keepFrom_lastIo (s t : State) : (s.keepFrom t).lastIo = s.lastIo := rfl
@[simp] theorem State.keepFrom_ioOut (s t : State) : (s.keepFrom t).ioOut = s.ioOut := rfl

/-! ### addLen -/
@[simp] theorem State.addLen_gpr (s : State) (n : Nat) : (s.addLen n).gpr = s.gpr := rfl
@[simp] theorem State.addLen_eip (s : State) (n : Nat) : (s.addLen n).eip = s.eip := rfl
@[simp] theorem State.addLen_eflags (s : State) (n : Nat) : (s.addLen n).eflags = s.eflags := rfl
@[simp] theorem State.addLen_es (s : State) (n : Nat) : (s.addLen n).es = s.es := rfl
@[simp] theorem State.addLen_cs (s : State) (n : Nat) : (s.addLen n).cs = s.cs := rfl
@[simp] theorem State.addLen_ss (s : State) (n : Nat) : (s.addLen n).ss = s.ss := rfl
@[simp] theorem State.addLen_ds (s : State) (n : Nat) : (s.addLen n).ds = s.ds := rfl
@[simp] theorem State.addLen_fs (s : State) (n : Nat) : (s.addLen n).fs = s.fs := rfl
@[simp] theorem State.addLen_gs (s : State) (n : Nat) : (s.addLen n).gs = s.gs := rfl
@[simp] theorem State.addLen_cpl (s : State) (n : Nat) : (s.addLen n).cpl = s.cpl := rfl
@[simp] theorem State.addLen_gdtr (s : State) (n : Nat) : (s.addLen n).gdtr = s.gdtr := rfl
@[simp] theorem State.addLen_idtr (s : State) (n : Nat) : (s.addLen n).idtr = s.idtr := rfl
@[simp] theorem State.addLen_ldtr (s : State) (n : Nat) : (s.addLen n).ldtr = s.ldtr := rfl
@[simp] theorem State.addLen_tr (s : State) (n : Nat) : (s.addLen n).tr = s.tr := rfl
@[simp] theorem State.addLen_cr0 (s : State) (n : Nat) : (s.addLen n).cr0 = s.cr0 := rfl
@[simp] theorem State.addLen_cr2 (s : State) (n : Nat) : (s.addLen n).cr2 = s.cr2 := rfl
@[simp] theorem State.addLen_cr3 (s : State) (n : Nat) : (s.addLen n).cr3 = s.cr3 := rfl
@[simp] theorem State.addLen_cr4 (s : State) (n : Nat) : (s.addLen n).cr4 = s.cr4 := rfl
@[simp] theorem State.addLen_pdpte (s : State) (n : Nat) : (s.addLen n).pdpte = s.pdpte := rfl
@[simp] theorem State.addLen_dr0 (s : State) (n : Nat) : (s.addLen n).dr0 = s.dr0 := rfl
@[simp] theorem State.addLen_dr1 (s : State) (n : Nat) : (s.addLen n).dr1 = s.dr1 := rfl
@[simp] theorem State.addLen_dr2 (s : State) (n : Nat) : (s.addLen n).dr2 = s.dr2 := rfl
@[simp] theorem State.addLen_dr3 (s : State) (n : Nat) : (s.addLen n).dr3 = s.dr3 := rfl
@[simp] theorem State.addLen_dr6 (s : State) (n : Nat) : (s.addLen n).dr6 = s.dr6 := rfl
@[simp] theorem State.addLen_dr7 (s : State) (n : Nat) : (s.addLen n).dr7 = s.dr7 := rfl
@[simp] theorem State.addLen_fpu (s : State) (n : Nat) : (s.addLen n).fpu = s.fpu := rfl
@[simp] theorem State.addLen_xmm (s : State) (n : Nat) : (s.addLen n).xmm = s.xmm := rfl
@[simp] theorem State.addLen_mxcsr (s : State) (n : Nat) : (s.addLen n).mxcsr = s.mxcsr := rfl
@[simp] theorem State.addLen_activity (s : State) (n : Nat) : (s.addLen n).activity = s.activity := rfl
@[simp] theorem State.addLen_monitor (s : State) (n : Nat) : (s.addLen n).monitor = s.monitor := rfl
@[simp] theorem State.addLen_ssShadow (s : State) (n : Nat) : (s.addLen n).ssShadow = s.ssShadow := rfl
@[simp] theorem State.addLen_stiShadow (s : State) (n : Nat) : (s.addLen n).stiShadow = s.stiShadow := rfl
@[simp] theorem State.addLen_nmiBlocked (s : State) (n : Nat) : (s.addLen n).nmiBlocked = s.nmiBlocked := rfl
@[simp] theorem State.addLen_traps (s : State) (n : Nat) : (s.addLen n).traps = s.traps := rfl
@[simp] theorem State.addLen_msr (s : State) (n : Nat) : (s.addLen n).msr = s.msr := rfl
@[simp] theorem State.addLen_apic (s : State) (n : Nat) : (s.addLen n).apic = s.apic := rfl
@[simp] theorem State.addLen_tlb (s : State) (n : Nat) : (s.addLen n).tlb = s.tlb := rfl
@[simp] theorem State.addLen_inSmm (s : State) (n : Nat) : (s.addLen n).inSmm = s.inSmm := rfl
@[simp] theorem State.addLen_smbase (s : State) (n : Nat) : (s.addLen n).smbase = s.smbase := rfl
@[simp] theorem State.addLen_smmDump (s : State) (n : Nat) : (s.addLen n).smmDump = s.smmDump := rfl
@[simp] theorem State.addLen_smmRestart (s : State) (n : Nat) : (s.addLen n).smmRestart = s.smmRestart := rfl
@[simp] theorem State.addLen_ucode (s : State) (n : Nat) : (s.addLen n).ucode = s.ucode := rfl
@[simp] theorem State.addLen_pending (s : State) (n : Nat) : (s.addLen n).pending = s.pending := rfl
@[simp] theorem State.addLen_mem (s : State) (n : Nat) : (s.addLen n).mem = s.mem := rfl
@[simp] theorem State.addLen_adMarks (s : State) (n : Nat) : (s.addLen n).adMarks = s.adMarks := rfl
@[simp] theorem State.addLen_draws (s : State) (n : Nat) : (s.addLen n).draws = s.draws := rfl
@[simp] theorem State.addLen_cur (s : State) (n : Nat) : (s.addLen n).cur = { s.cur with len := s.cur.len + n } := rfl
@[simp] theorem State.addLen_repBusy (s : State) (n : Nat) : (s.addLen n).repBusy = s.repBusy := rfl
@[simp] theorem State.addLen_redeliver (s : State) (n : Nat) : (s.addLen n).redeliver = s.redeliver := rfl
@[simp] theorem State.addLen_lastIo (s : State) (n : Nat) : (s.addLen n).lastIo = s.lastIo := rfl
@[simp] theorem State.addLen_ioOut (s : State) (n : Nat) : (s.addLen n).ioOut = s.ioOut := rfl

/-! ### enterShutdown -/
@[simp] theorem State.enterShutdown_gpr (s : State) : (s.enterShutdown).gpr = s.gpr := rfl
@[simp] theorem State.enterShutdown_eip (s : State) : (s.enterShutdown).eip = s.eip := rfl
@[simp] theorem State.enterShutdown_eflags (s : State) : (s.enterShutdown).eflags = s.eflags := rfl
@[simp] theorem State.enterShutdown_es (s : State) : (s.enterShutdown).es = s.es := rfl
@[simp] theorem State.enterShutdown_cs (s : State) : (s.enterShutdown).cs = s.cs := rfl
@[simp] theorem State.enterShutdown_ss (s : State) : (s.enterShutdown).ss = s.ss := rfl
@[simp] theorem State.enterShutdown_ds (s : State) : (s.enterShutdown).ds = s.ds := rfl
@[simp] theorem State.enterShutdown_fs (s : State) : (s.enterShutdown).fs = s.fs := rfl
@[simp] theorem State.enterShutdown_gs (s : State) : (s.enterShutdown).gs = s.gs := rfl
@[simp] theorem State.enterShutdown_cpl (s : State) : (s.enterShutdown).cpl = s.cpl := rfl
@[simp] theorem State.enterShutdown_gdtr (s : State) : (s.enterShutdown).gdtr = s.gdtr := rfl
@[simp] theorem State.enterShutdown_idtr (s : State) : (s.enterShutdown).idtr = s.idtr := rfl
@[simp] theorem State.enterShutdown_ldtr (s : State) : (s.enterShutdown).ldtr = s.ldtr := rfl
@[simp] theorem State.enterShutdown_tr (s : State) : (s.enterShutdown).tr = s.tr := rfl
@[simp] theorem State.enterShutdown_cr0 (s : State) : (s.enterShutdown).cr0 = s.cr0 := rfl
@[simp] theorem State.enterShutdown_cr2 (s : State) : (s.enterShutdown).cr2 = s.cr2 := rfl
@[simp] theorem State.enterShutdown_cr3 (s : State) : (s.enterShutdown).cr3 = s.cr3 := rfl
@[simp] theorem State.enterShutdown_cr4 (s : State) : (s.enterShutdown).cr4 = s.cr4 := rfl
@[simp] theorem State.enterShutdown_pdpte (s : State) : (s.enterShutdown).pdpte = s.pdpte := rfl
@[simp] theorem State.enterShutdown_dr0 (s : State) : (s.enterShutdown).dr0 = s.dr0 := rfl
@[simp] theorem State.enterShutdown_dr1 (s : State) : (s.enterShutdown).dr1 = s.dr1 := rfl
@[simp] theorem State.enterShutdown_dr2 (s : State) : (s.enterShutdown).dr2 = s.dr2 := rfl
@[simp] theorem State.enterShutdown_dr3 (s : State) : (s.enterShutdown).dr3 = s.dr3 := rfl
@[simp] theorem State.enterShutdown_dr6 (s : State) : (s.enterShutdown).dr6 = s.dr6 := rfl
@[simp] theorem State.enterShutdown_dr7 (s : State) : (s.enterShutdown).dr7 = s.dr7 := rfl
@[simp] theorem State.enterShutdown_fpu (s : State) : (s.enterShutdown).fpu = s.fpu := rfl
@[simp] theorem State.enterShutdown_xmm (s : State) : (s.enterShutdown).xmm = s.xmm := rfl
@[simp] theorem State.enterShutdown_mxcsr (s : State) : (s.enterShutdown).mxcsr = s.mxcsr := rfl
@[simp] theorem State.enterShutdown_activity (s : State) : (s.enterShutdown).activity = .shutdown := rfl
@[simp] theorem State.enterShutdown_monitor (s : State) : (s.enterShutdown).monitor = s.monitor := rfl
@[simp] theorem State.enterShutdown_ssShadow (s : State) : (s.enterShutdown).ssShadow = s.ssShadow := rfl
@[simp] theorem State.enterShutdown_stiShadow (s : State) : (s.enterShutdown).stiShadow = s.stiShadow := rfl
@[simp] theorem State.enterShutdown_nmiBlocked (s : State) : (s.enterShutdown).nmiBlocked = s.nmiBlocked := rfl
@[simp] theorem State.enterShutdown_traps (s : State) : (s.enterShutdown).traps = s.traps := rfl
@[simp] theorem State.enterShutdown_msr (s : State) : (s.enterShutdown).msr = s.msr := rfl
@[simp] theorem State.enterShutdown_apic (s : State) : (s.enterShutdown).apic = s.apic := rfl
@[simp] theorem State.enterShutdown_tlb (s : State) : (s.enterShutdown).tlb = s.tlb := rfl
@[simp] theorem State.enterShutdown_inSmm (s : State) : (s.enterShutdown).inSmm = s.inSmm := rfl
@[simp] theorem State.enterShutdown_smbase (s : State) : (s.enterShutdown).smbase = s.smbase := rfl
@[simp] theorem State.enterShutdown_smmDump (s : State) : (s.enterShutdown).smmDump = s.smmDump := rfl
@[simp] theorem State.enterShutdown_smmRestart (s : State) : (s.enterShutdown).smmRestart = s.smmRestart := rfl
@[simp] theorem State.enterShutdown_ucode (s : State) : (s.enterShutdown).ucode = s.ucode := rfl
@[simp] theorem State.enterShutdown_pending (s : State) : (s.enterShutdown).pending = s.pending := rfl
@[simp] theorem State.enterShutdown_mem (s : State) : (s.enterShutdown).mem = s.mem := rfl
@[simp] theorem State.enterShutdown_adMarks (s : State) : (s.enterShutdown).adMarks = s.adMarks := rfl
@[simp] theorem State.enterShutdown_draws (s : State) : (s.enterShutdown).draws = s.draws := rfl
@[simp] theorem State.enterShutdown_cur (s : State) : (s.enterShutdown).cur = .none := rfl
@[simp] theorem State.enterShutdown_repBusy (s : State) : (s.enterShutdown).repBusy = s.repBusy := rfl
@[simp] theorem State.enterShutdown_redeliver (s : State) : (s.enterShutdown).redeliver = s.redeliver := rfl
@[simp] theorem State.enterShutdown_lastIo (s : State) : (s.enterShutdown).lastIo = s.lastIo := rfl
@[simp] theorem State.enterShutdown_ioOut (s : State) : (s.enterShutdown).ioOut = s.ioOut := rfl

/-! ### freed -/
@[simp] theorem State.freed_gpr (s : State) (e : Word32) (d : Nat) : (s.freed e d).gpr = s.gpr := rfl
@[simp] theorem State.freed_eip (s : State) (e : Word32) (d : Nat) : (s.freed e d).eip = s.eip := rfl
@[simp] theorem State.freed_eflags (s : State) (e : Word32) (d : Nat) : (s.freed e d).eflags = e := rfl
@[simp] theorem State.freed_es (s : State) (e : Word32) (d : Nat) : (s.freed e d).es = s.es := rfl
@[simp] theorem State.freed_cs (s : State) (e : Word32) (d : Nat) : (s.freed e d).cs = s.cs := rfl
@[simp] theorem State.freed_ss (s : State) (e : Word32) (d : Nat) : (s.freed e d).ss = s.ss := rfl
@[simp] theorem State.freed_ds (s : State) (e : Word32) (d : Nat) : (s.freed e d).ds = s.ds := rfl
@[simp] theorem State.freed_fs (s : State) (e : Word32) (d : Nat) : (s.freed e d).fs = s.fs := rfl
@[simp] theorem State.freed_gs (s : State) (e : Word32) (d : Nat) : (s.freed e d).gs = s.gs := rfl
@[simp] theorem State.freed_cpl (s : State) (e : Word32) (d : Nat) : (s.freed e d).cpl = s.cpl := rfl
@[simp] theorem State.freed_gdtr (s : State) (e : Word32) (d : Nat) : (s.freed e d).gdtr = s.gdtr := rfl
@[simp] theorem State.freed_idtr (s : State) (e : Word32) (d : Nat) : (s.freed e d).idtr = s.idtr := rfl
@[simp] theorem State.freed_ldtr (s : State) (e : Word32) (d : Nat) : (s.freed e d).ldtr = s.ldtr := rfl
@[simp] theorem State.freed_tr (s : State) (e : Word32) (d : Nat) : (s.freed e d).tr = s.tr := rfl
@[simp] theorem State.freed_cr0 (s : State) (e : Word32) (d : Nat) : (s.freed e d).cr0 = s.cr0 := rfl
@[simp] theorem State.freed_cr2 (s : State) (e : Word32) (d : Nat) : (s.freed e d).cr2 = s.cr2 := rfl
@[simp] theorem State.freed_cr3 (s : State) (e : Word32) (d : Nat) : (s.freed e d).cr3 = s.cr3 := rfl
@[simp] theorem State.freed_cr4 (s : State) (e : Word32) (d : Nat) : (s.freed e d).cr4 = s.cr4 := rfl
@[simp] theorem State.freed_pdpte (s : State) (e : Word32) (d : Nat) : (s.freed e d).pdpte = s.pdpte := rfl
@[simp] theorem State.freed_dr0 (s : State) (e : Word32) (d : Nat) : (s.freed e d).dr0 = s.dr0 := rfl
@[simp] theorem State.freed_dr1 (s : State) (e : Word32) (d : Nat) : (s.freed e d).dr1 = s.dr1 := rfl
@[simp] theorem State.freed_dr2 (s : State) (e : Word32) (d : Nat) : (s.freed e d).dr2 = s.dr2 := rfl
@[simp] theorem State.freed_dr3 (s : State) (e : Word32) (d : Nat) : (s.freed e d).dr3 = s.dr3 := rfl
@[simp] theorem State.freed_dr6 (s : State) (e : Word32) (d : Nat) : (s.freed e d).dr6 = s.dr6 := rfl
@[simp] theorem State.freed_dr7 (s : State) (e : Word32) (d : Nat) : (s.freed e d).dr7 = s.dr7 := rfl
@[simp] theorem State.freed_fpu (s : State) (e : Word32) (d : Nat) : (s.freed e d).fpu = s.fpu := rfl
@[simp] theorem State.freed_xmm (s : State) (e : Word32) (d : Nat) : (s.freed e d).xmm = s.xmm := rfl
@[simp] theorem State.freed_mxcsr (s : State) (e : Word32) (d : Nat) : (s.freed e d).mxcsr = s.mxcsr := rfl
@[simp] theorem State.freed_activity (s : State) (e : Word32) (d : Nat) : (s.freed e d).activity = s.activity := rfl
@[simp] theorem State.freed_monitor (s : State) (e : Word32) (d : Nat) : (s.freed e d).monitor = s.monitor := rfl
@[simp] theorem State.freed_ssShadow (s : State) (e : Word32) (d : Nat) : (s.freed e d).ssShadow = s.ssShadow := rfl
@[simp] theorem State.freed_stiShadow (s : State) (e : Word32) (d : Nat) : (s.freed e d).stiShadow = s.stiShadow := rfl
@[simp] theorem State.freed_nmiBlocked (s : State) (e : Word32) (d : Nat) : (s.freed e d).nmiBlocked = s.nmiBlocked := rfl
@[simp] theorem State.freed_traps (s : State) (e : Word32) (d : Nat) : (s.freed e d).traps = s.traps := rfl
@[simp] theorem State.freed_msr (s : State) (e : Word32) (d : Nat) : (s.freed e d).msr = s.msr := rfl
@[simp] theorem State.freed_apic (s : State) (e : Word32) (d : Nat) : (s.freed e d).apic = s.apic := rfl
@[simp] theorem State.freed_tlb (s : State) (e : Word32) (d : Nat) : (s.freed e d).tlb = s.tlb := rfl
@[simp] theorem State.freed_inSmm (s : State) (e : Word32) (d : Nat) : (s.freed e d).inSmm = s.inSmm := rfl
@[simp] theorem State.freed_smbase (s : State) (e : Word32) (d : Nat) : (s.freed e d).smbase = s.smbase := rfl
@[simp] theorem State.freed_smmDump (s : State) (e : Word32) (d : Nat) : (s.freed e d).smmDump = s.smmDump := rfl
@[simp] theorem State.freed_smmRestart (s : State) (e : Word32) (d : Nat) : (s.freed e d).smmRestart = s.smmRestart := rfl
@[simp] theorem State.freed_ucode (s : State) (e : Word32) (d : Nat) : (s.freed e d).ucode = s.ucode := rfl
@[simp] theorem State.freed_pending (s : State) (e : Word32) (d : Nat) : (s.freed e d).pending = s.pending := rfl
@[simp] theorem State.freed_mem (s : State) (e : Word32) (d : Nat) : (s.freed e d).mem = s.mem := rfl
@[simp] theorem State.freed_adMarks (s : State) (e : Word32) (d : Nat) : (s.freed e d).adMarks = s.adMarks := rfl
@[simp] theorem State.freed_draws (s : State) (e : Word32) (d : Nat) : (s.freed e d).draws = d := rfl
@[simp] theorem State.freed_cur (s : State) (e : Word32) (d : Nat) : (s.freed e d).cur = s.cur := rfl
@[simp] theorem State.freed_repBusy (s : State) (e : Word32) (d : Nat) : (s.freed e d).repBusy = s.repBusy := rfl
@[simp] theorem State.freed_redeliver (s : State) (e : Word32) (d : Nat) : (s.freed e d).redeliver = s.redeliver := rfl
@[simp] theorem State.freed_lastIo (s : State) (e : Word32) (d : Nat) : (s.freed e d).lastIo = s.lastIo := rfl
@[simp] theorem State.freed_ioOut (s : State) (e : Word32) (d : Nat) : (s.freed e d).ioOut = s.ioOut := rfl

/-! ### having -/
@[simp] theorem State.having_gpr (s t : State) : (s.having t).gpr = s.gpr := rfl
@[simp] theorem State.having_eip (s t : State) : (s.having t).eip = s.eip := rfl
@[simp] theorem State.having_eflags (s t : State) : (s.having t).eflags = s.eflags := rfl
@[simp] theorem State.having_es (s t : State) : (s.having t).es = s.es := rfl
@[simp] theorem State.having_cs (s t : State) : (s.having t).cs = s.cs := rfl
@[simp] theorem State.having_ss (s t : State) : (s.having t).ss = s.ss := rfl
@[simp] theorem State.having_ds (s t : State) : (s.having t).ds = s.ds := rfl
@[simp] theorem State.having_fs (s t : State) : (s.having t).fs = s.fs := rfl
@[simp] theorem State.having_gs (s t : State) : (s.having t).gs = s.gs := rfl
@[simp] theorem State.having_cpl (s t : State) : (s.having t).cpl = s.cpl := rfl
@[simp] theorem State.having_gdtr (s t : State) : (s.having t).gdtr = s.gdtr := rfl
@[simp] theorem State.having_idtr (s t : State) : (s.having t).idtr = s.idtr := rfl
@[simp] theorem State.having_ldtr (s t : State) : (s.having t).ldtr = s.ldtr := rfl
@[simp] theorem State.having_tr (s t : State) : (s.having t).tr = s.tr := rfl
@[simp] theorem State.having_cr0 (s t : State) : (s.having t).cr0 = s.cr0 := rfl
@[simp] theorem State.having_cr2 (s t : State) : (s.having t).cr2 = s.cr2 := rfl
@[simp] theorem State.having_cr3 (s t : State) : (s.having t).cr3 = s.cr3 := rfl
@[simp] theorem State.having_cr4 (s t : State) : (s.having t).cr4 = s.cr4 := rfl
@[simp] theorem State.having_pdpte (s t : State) : (s.having t).pdpte = s.pdpte := rfl
@[simp] theorem State.having_dr0 (s t : State) : (s.having t).dr0 = s.dr0 := rfl
@[simp] theorem State.having_dr1 (s t : State) : (s.having t).dr1 = s.dr1 := rfl
@[simp] theorem State.having_dr2 (s t : State) : (s.having t).dr2 = s.dr2 := rfl
@[simp] theorem State.having_dr3 (s t : State) : (s.having t).dr3 = s.dr3 := rfl
@[simp] theorem State.having_dr6 (s t : State) : (s.having t).dr6 = s.dr6 := rfl
@[simp] theorem State.having_dr7 (s t : State) : (s.having t).dr7 = s.dr7 := rfl
@[simp] theorem State.having_fpu (s t : State) : (s.having t).fpu = s.fpu := rfl
@[simp] theorem State.having_xmm (s t : State) : (s.having t).xmm = s.xmm := rfl
@[simp] theorem State.having_mxcsr (s t : State) : (s.having t).mxcsr = s.mxcsr := rfl
@[simp] theorem State.having_activity (s t : State) : (s.having t).activity = s.activity := rfl
@[simp] theorem State.having_monitor (s t : State) : (s.having t).monitor = s.monitor := rfl
@[simp] theorem State.having_ssShadow (s t : State) : (s.having t).ssShadow = false := rfl
@[simp] theorem State.having_stiShadow (s t : State) : (s.having t).stiShadow = false := rfl
@[simp] theorem State.having_nmiBlocked (s t : State) : (s.having t).nmiBlocked = s.nmiBlocked := rfl
@[simp] theorem State.having_traps (s t : State) : (s.having t).traps = t.traps := rfl
@[simp] theorem State.having_msr (s t : State) : (s.having t).msr = s.msr := rfl
@[simp] theorem State.having_apic (s t : State) : (s.having t).apic = t.apic := rfl
@[simp] theorem State.having_tlb (s t : State) : (s.having t).tlb = t.tlb := rfl
@[simp] theorem State.having_inSmm (s t : State) : (s.having t).inSmm = s.inSmm := rfl
@[simp] theorem State.having_smbase (s t : State) : (s.having t).smbase = s.smbase := rfl
@[simp] theorem State.having_smmDump (s t : State) : (s.having t).smmDump = s.smmDump := rfl
@[simp] theorem State.having_smmRestart (s t : State) : (s.having t).smmRestart = s.smmRestart := rfl
@[simp] theorem State.having_ucode (s t : State) : (s.having t).ucode = s.ucode := rfl
@[simp] theorem State.having_pending (s t : State) : (s.having t).pending = s.pending := rfl
@[simp] theorem State.having_mem (s t : State) : (s.having t).mem = t.mem := rfl
@[simp] theorem State.having_adMarks (s t : State) : (s.having t).adMarks = t.adMarks := rfl
@[simp] theorem State.having_draws (s t : State) : (s.having t).draws = t.draws := rfl
@[simp] theorem State.having_cur (s t : State) : (s.having t).cur = s.cur := rfl
@[simp] theorem State.having_repBusy (s t : State) : (s.having t).repBusy = false := rfl
@[simp] theorem State.having_redeliver (s t : State) : (s.having t).redeliver = s.redeliver := rfl
@[simp] theorem State.having_lastIo (s t : State) : (s.having t).lastIo = none := rfl
@[simp] theorem State.having_ioOut (s t : State) : (s.having t).ioOut = s.ioOut := rfl

/-! ### complete -/
@[simp] theorem State.complete_gpr (s t : State) (k : Bool) (a : Word32) : (s.complete t k a).gpr = t.gpr := rfl
@[simp] theorem State.complete_eip (s t : State) (k : Bool) (a : Word32) : (s.complete t k a).eip = a := rfl
@[simp] theorem State.complete_eflags (s t : State) (k : Bool) (a : Word32) : (s.complete t k a).eflags = if k || t.repBusy then t.eflags else setBit t.eflags fRF false := rfl
@[simp] theorem State.complete_es (s t : State) (k : Bool) (a : Word32) : (s.complete t k a).es = t.es := rfl
@[simp] theorem State.complete_cs (s t : State) (k : Bool) (a : Word32) : (s.complete t k a).cs = t.cs := rfl
@[simp] theorem State.complete_ss (s t : State) (k : Bool) (a : Word32) : (s.complete t k a).ss = t.ss := rfl
@[simp] theorem State.complete_ds (s t : State) (k : Bool) (a : Word32) : (s.complete t k a).ds = t.ds := rfl
@[simp] theorem State.complete_fs (s t : State) (k : Bool) (a : Word32) : (s.complete t k a).fs = t.fs := rfl
@[simp] theorem State.complete_gs (s t : State) (k : Bool) (a : Word32) : (s.complete t k a).gs = t.gs := rfl
@[simp] theorem State.complete_cpl (s t : State) (k : Bool) (a : Word32) : (s.complete t k a).cpl = t.cpl := rfl
@[simp] theorem State.complete_gdtr (s t : State) (k : Bool) (a : Word32) : (s.complete t k a).gdtr = t.gdtr := rfl
@[simp] theorem State.complete_idtr (s t : State) (k : Bool) (a : Word32) : (s.complete t k a).idtr = t.idtr := rfl
@[simp] theorem State.complete_ldtr (s t : State) (k : Bool) (a : Word32) : (s.complete t k a).ldtr = t.ldtr := rfl
@[simp] theorem State.complete_tr (s t : State) (k : Bool) (a : Word32) : (s.complete t k a).tr = t.tr := rfl
@[simp] theorem State.complete_cr0 (s t : State) (k : Bool) (a : Word32) : (s.complete t k a).cr0 = t.cr0 := rfl
@[simp] theorem State.complete_cr2 (s t : State) (k : Bool) (a : Word32) : (s.complete t k a).cr2 = t.cr2 := rfl
@[simp] theorem State.complete_cr3 (s t : State) (k : Bool) (a : Word32) : (s.complete t k a).cr3 = t.cr3 := rfl
@[simp] theorem State.complete_cr4 (s t : State) (k : Bool) (a : Word32) : (s.complete t k a).cr4 = t.cr4 := rfl
@[simp] theorem State.complete_pdpte (s t : State) (k : Bool) (a : Word32) : (s.complete t k a).pdpte = t.pdpte := rfl
@[simp] theorem State.complete_dr0 (s t : State) (k : Bool) (a : Word32) : (s.complete t k a).dr0 = t.dr0 := rfl
@[simp] theorem State.complete_dr1 (s t : State) (k : Bool) (a : Word32) : (s.complete t k a).dr1 = t.dr1 := rfl
@[simp] theorem State.complete_dr2 (s t : State) (k : Bool) (a : Word32) : (s.complete t k a).dr2 = t.dr2 := rfl
@[simp] theorem State.complete_dr3 (s t : State) (k : Bool) (a : Word32) : (s.complete t k a).dr3 = t.dr3 := rfl
@[simp] theorem State.complete_dr6 (s t : State) (k : Bool) (a : Word32) : (s.complete t k a).dr6 = t.dr6 := rfl
@[simp] theorem State.complete_dr7 (s t : State) (k : Bool) (a : Word32) : (s.complete t k a).dr7 = t.dr7 := rfl
@[simp] theorem State.complete_fpu (s t : State) (k : Bool) (a : Word32) : (s.complete t k a).fpu = t.fpu := rfl
@[simp] theorem State.complete_xmm (s t : State) (k : Bool) (a : Word32) : (s.complete t k a).xmm = t.xmm := rfl
@[simp] theorem State.complete_mxcsr (s t : State) (k : Bool) (a : Word32) : (s.complete t k a).mxcsr = t.mxcsr := rfl
@[simp] theorem State.complete_activity (s t : State) (k : Bool) (a : Word32) : (s.complete t k a).activity = t.activity := rfl
@[simp] theorem State.complete_monitor (s t : State) (k : Bool) (a : Word32) : (s.complete t k a).monitor = t.monitor := rfl
@[simp] theorem State.complete_ssShadow (s t : State) (k : Bool) (a : Word32) : (s.complete t k a).ssShadow = if t.repBusy then s.ssShadow else t.ssShadow && !s.ssShadow := rfl
@[simp] theorem State.complete_stiShadow (s t : State) (k : Bool) (a : Word32) : (s.complete t k a).stiShadow = if t.repBusy then s.stiShadow else t.stiShadow := rfl
@[simp] theorem State.complete_nmiBlocked (s t : State) (k : Bool) (a : Word32) : (s.complete t k a).nmiBlocked = t.nmiBlocked := rfl
@[simp] theorem State.complete_traps (s t : State) (k : Bool) (a : Word32) : (s.complete t k a).traps = if s.flag fTF then t.traps ||| 0x4000 else t.traps := rfl
@[simp] theorem State.complete_msr (s t : State) (k : Bool) (a : Word32) : (s.complete t k a).msr = t.msr := rfl
@[simp] theorem State.complete_apic (s t : State) (k : Bool) (a : Word32) : (s.complete t k a).apic = t.apic := rfl
@[simp] theorem State.complete_tlb (s t : State) (k : Bool) (a : Word32) : (s.complete t k a).tlb = t.tlb := rfl
@[simp] theorem State.complete_inSmm (s t : State) (k : Bool) (a : Word32) : (s.complete t k a).inSmm = t.inSmm := rfl
@[simp] theorem State.complete_smbase (s t : State) (k : Bool) (a : Word32) : (s.complete t k a).smbase = t.smbase := rfl
@[simp] theorem State.complete_smmDump (s t : State) (k : Bool) (a : Word32) : (s.complete t k a).smmDump = t.smmDump := rfl
@[simp] theorem State.complete_smmRestart (s t : State) (k : Bool) (a : Word32) : (s.complete t k a).smmRestart = t.smmRestart := rfl
@[simp] theorem State.complete_ucode (s t : State) (k : Bool) (a : Word32) : (s.complete t k a).ucode = t.ucode := rfl
@[simp] theorem State.complete_pending (s t : State) (k : Bool) (a : Word32) : (s.complete t k a).pending = t.pending := rfl
@[simp] theorem State.complete_mem (s t : State) (k : Bool) (a : Word32) : (s.complete t k a).mem = t.mem := rfl
@[simp] theorem State.complete_adMarks (s t : State) (k : Bool) (a : Word32) : (s.complete t k a).adMarks = t.adMarks := rfl
@[simp] theorem State.complete_draws (s t : State) (k : Bool) (a : Word32) : (s.complete t k a).draws = t.draws := rfl
@[simp] theorem State.complete_cur (s t : State) (k : Bool) (a : Word32) : (s.complete t k a).cur = .none := rfl
@[simp] theorem State.complete_repBusy (s t : State) (k : Bool) (a : Word32) : (s.complete t k a).repBusy = t.repBusy := rfl
@[simp] theorem State.complete_redeliver (s t : State) (k : Bool) (a : Word32) : (s.complete t k a).redeliver = t.redeliver := rfl
@[simp] theorem State.complete_lastIo (s t : State) (k : Bool) (a : Word32) : (s.complete t k a).lastIo = t.lastIo := rfl
@[simp] theorem State.complete_ioOut (s t : State) (k : Bool) (a : Word32) : (s.complete t k a).ioOut = t.ioOut := rfl

/-! ### done -/
@[simp] theorem State.done_gpr (s u : State) : (s.done u).gpr = u.gpr := rfl
@[simp] theorem State.done_eip (s u : State) : (s.done u).eip = s.nextPc := rfl
@[simp] theorem State.done_eflags (s u : State) : (s.done u).eflags = if u.repBusy then u.eflags else setBit u.eflags fRF false := rfl
@[simp] theorem State.done_es (s u : State) : (s.done u).es = u.es := rfl
@[simp] theorem State.done_cs (s u : State) : (s.done u).cs = u.cs := rfl
@[simp] theorem State.done_ss (s u : State) : (s.done u).ss = u.ss := rfl
@[simp] theorem State.done_ds (s u : State) : (s.done u).ds = u.ds := rfl
@[simp] theorem State.done_fs (s u : State) : (s.done u).fs = u.fs := rfl
@[simp] theorem State.done_gs (s u : State) : (s.done u).gs = u.gs := rfl
@[simp] theorem State.done_cpl (s u : State) : (s.done u).cpl = u.cpl := rfl
@[simp] theorem State.done_gdtr (s u : State) : (s.done u).gdtr = u.gdtr := rfl
@[simp] theorem State.done_idtr (s u : State) : (s.done u).idtr = u.idtr := rfl
@[simp] theorem State.done_ldtr (s u : State) : (s.done u).ldtr = u.ldtr := rfl
@[simp] theorem State.done_tr (s u : State) : (s.done u).tr = u.tr := rfl
@[simp] theorem State.done_cr0 (s u : State) : (s.done u).cr0 = u.cr0 := rfl
@[simp] theorem State.done_cr2 (s u : State) : (s.done u).cr2 = u.cr2 := rfl
@[simp] theorem State.done_cr3 (s u : State) : (s.done u).cr3 = u.cr3 := rfl
@[simp] theorem State.done_cr4 (s u : State) : (s.done u).cr4 = u.cr4 := rfl
@[simp] theorem State.done_pdpte (s u : State) : (s.done u).pdpte = u.pdpte := rfl
@[simp] theorem State.done_dr0 (s u : State) : (s.done u).dr0 = u.dr0 := rfl
@[simp] theorem State.done_dr1 (s u : State) : (s.done u).dr1 = u.dr1 := rfl
@[simp] theorem State.done_dr2 (s u : State) : (s.done u).dr2 = u.dr2 := rfl
@[simp] theorem State.done_dr3 (s u : State) : (s.done u).dr3 = u.dr3 := rfl
@[simp] theorem State.done_dr6 (s u : State) : (s.done u).dr6 = u.dr6 := rfl
@[simp] theorem State.done_dr7 (s u : State) : (s.done u).dr7 = u.dr7 := rfl
@[simp] theorem State.done_fpu (s u : State) : (s.done u).fpu = u.fpu := rfl
@[simp] theorem State.done_xmm (s u : State) : (s.done u).xmm = u.xmm := rfl
@[simp] theorem State.done_mxcsr (s u : State) : (s.done u).mxcsr = u.mxcsr := rfl
@[simp] theorem State.done_activity (s u : State) : (s.done u).activity = u.activity := rfl
@[simp] theorem State.done_monitor (s u : State) : (s.done u).monitor = u.monitor := rfl
@[simp] theorem State.done_ssShadow (s u : State) : (s.done u).ssShadow = if u.repBusy then s.ssShadow else u.ssShadow && !s.ssShadow := rfl
@[simp] theorem State.done_stiShadow (s u : State) : (s.done u).stiShadow = if u.repBusy then s.stiShadow else u.stiShadow := rfl
@[simp] theorem State.done_nmiBlocked (s u : State) : (s.done u).nmiBlocked = u.nmiBlocked := rfl
@[simp] theorem State.done_traps (s u : State) : (s.done u).traps = if s.flag fTF then u.traps ||| 0x4000 else u.traps := rfl
@[simp] theorem State.done_msr (s u : State) : (s.done u).msr = u.msr := rfl
@[simp] theorem State.done_apic (s u : State) : (s.done u).apic = u.apic := rfl
@[simp] theorem State.done_tlb (s u : State) : (s.done u).tlb = u.tlb := rfl
@[simp] theorem State.done_inSmm (s u : State) : (s.done u).inSmm = u.inSmm := rfl
@[simp] theorem State.done_smbase (s u : State) : (s.done u).smbase = u.smbase := rfl
@[simp] theorem State.done_smmDump (s u : State) : (s.done u).smmDump = u.smmDump := rfl
@[simp] theorem State.done_smmRestart (s u : State) : (s.done u).smmRestart = u.smmRestart := rfl
@[simp] theorem State.done_ucode (s u : State) : (s.done u).ucode = u.ucode := rfl
@[simp] theorem State.done_pending (s u : State) : (s.done u).pending = u.pending := rfl
@[simp] theorem State.done_mem (s u : State) : (s.done u).mem = u.mem := rfl
@[simp] theorem State.done_adMarks (s u : State) : (s.done u).adMarks = u.adMarks := rfl
@[simp] theorem State.done_draws (s u : State) : (s.done u).draws = u.draws := rfl
@[simp] theorem State.done_cur (s u : State) : (s.done u).cur = .none := rfl
@[simp] theorem State.done_repBusy (s u : State) : (s.done u).repBusy = u.repBusy := rfl
@[simp] theorem State.done_redeliver (s u : State) : (s.done u).redeliver = u.redeliver := rfl
@[simp] theorem State.done_lastIo (s u : State) : (s.done u).lastIo = u.lastIo := rfl
@[simp] theorem State.done_ioOut (s u : State) : (s.done u).ioOut = u.ioOut := rfl

/-! ### note -/
@[simp] theorem Event.note_gpr (e : Event) (s : State) : (e.note s).gpr = s.gpr := rfl
@[simp] theorem Event.note_eip (e : Event) (s : State) : (e.note s).eip = s.eip := rfl
@[simp] theorem Event.note_eflags (e : Event) (s : State) : (e.note s).eflags = s.eflags := rfl
@[simp] theorem Event.note_es (e : Event) (s : State) : (e.note s).es = s.es := rfl
@[simp] theorem Event.note_cs (e : Event) (s : State) : (e.note s).cs = s.cs := rfl
@[simp] theorem Event.note_ss (e : Event) (s : State) : (e.note s).ss = s.ss := rfl
@[simp] theorem Event.note_ds (e : Event) (s : State) : (e.note s).ds = s.ds := rfl
@[simp] theorem Event.note_fs (e : Event) (s : State) : (e.note s).fs = s.fs := rfl
@[simp] theorem Event.note_gs (e : Event) (s : State) : (e.note s).gs = s.gs := rfl
@[simp] theorem Event.note_cpl (e : Event) (s : State) : (e.note s).cpl = s.cpl := rfl
@[simp] theorem Event.note_gdtr (e : Event) (s : State) : (e.note s).gdtr = s.gdtr := rfl
@[simp] theorem Event.note_idtr (e : Event) (s : State) : (e.note s).idtr = s.idtr := rfl
@[simp] theorem Event.note_ldtr (e : Event) (s : State) : (e.note s).ldtr = s.ldtr := rfl
@[simp] theorem Event.note_tr (e : Event) (s : State) : (e.note s).tr = s.tr := rfl
@[simp] theorem Event.note_cr0 (e : Event) (s : State) : (e.note s).cr0 = s.cr0 := rfl
@[simp] theorem Event.note_cr2 (e : Event) (s : State) : (e.note s).cr2 = e.cr2.getD s.cr2 := rfl
@[simp] theorem Event.note_cr3 (e : Event) (s : State) : (e.note s).cr3 = s.cr3 := rfl
@[simp] theorem Event.note_cr4 (e : Event) (s : State) : (e.note s).cr4 = s.cr4 := rfl
@[simp] theorem Event.note_pdpte (e : Event) (s : State) : (e.note s).pdpte = s.pdpte := rfl
@[simp] theorem Event.note_dr0 (e : Event) (s : State) : (e.note s).dr0 = s.dr0 := rfl
@[simp] theorem Event.note_dr1 (e : Event) (s : State) : (e.note s).dr1 = s.dr1 := rfl
@[simp] theorem Event.note_dr2 (e : Event) (s : State) : (e.note s).dr2 = s.dr2 := rfl
@[simp] theorem Event.note_dr3 (e : Event) (s : State) : (e.note s).dr3 = s.dr3 := rfl
@[simp] theorem Event.note_dr6 (e : Event) (s : State) : (e.note s).dr6 = s.dr6 ||| e.dr6 := rfl
@[simp] theorem Event.note_dr7 (e : Event) (s : State) : (e.note s).dr7 = if e.debug then setBit s.dr7 13 false else s.dr7 := rfl
@[simp] theorem Event.note_fpu (e : Event) (s : State) : (e.note s).fpu = s.fpu := rfl
@[simp] theorem Event.note_xmm (e : Event) (s : State) : (e.note s).xmm = s.xmm := rfl
@[simp] theorem Event.note_mxcsr (e : Event) (s : State) : (e.note s).mxcsr = s.mxcsr ||| e.mxcsr := rfl
@[simp] theorem Event.note_activity (e : Event) (s : State) : (e.note s).activity = s.activity := rfl
@[simp] theorem Event.note_monitor (e : Event) (s : State) : (e.note s).monitor = s.monitor := rfl
@[simp] theorem Event.note_ssShadow (e : Event) (s : State) : (e.note s).ssShadow = s.ssShadow := rfl
@[simp] theorem Event.note_stiShadow (e : Event) (s : State) : (e.note s).stiShadow = s.stiShadow := rfl
@[simp] theorem Event.note_nmiBlocked (e : Event) (s : State) : (e.note s).nmiBlocked = s.nmiBlocked := rfl
@[simp] theorem Event.note_traps (e : Event) (s : State) : (e.note s).traps = s.traps := rfl
@[simp] theorem Event.note_msr (e : Event) (s : State) : (e.note s).msr = s.msr := rfl
@[simp] theorem Event.note_apic (e : Event) (s : State) : (e.note s).apic = s.apic := rfl
@[simp] theorem Event.note_tlb (e : Event) (s : State) : (e.note s).tlb = s.tlb := rfl
@[simp] theorem Event.note_inSmm (e : Event) (s : State) : (e.note s).inSmm = s.inSmm := rfl
@[simp] theorem Event.note_smbase (e : Event) (s : State) : (e.note s).smbase = s.smbase := rfl
@[simp] theorem Event.note_smmDump (e : Event) (s : State) : (e.note s).smmDump = s.smmDump := rfl
@[simp] theorem Event.note_smmRestart (e : Event) (s : State) : (e.note s).smmRestart = s.smmRestart := rfl
@[simp] theorem Event.note_ucode (e : Event) (s : State) : (e.note s).ucode = s.ucode := rfl
@[simp] theorem Event.note_pending (e : Event) (s : State) : (e.note s).pending = s.pending := rfl
@[simp] theorem Event.note_mem (e : Event) (s : State) : (e.note s).mem = s.mem := rfl
@[simp] theorem Event.note_adMarks (e : Event) (s : State) : (e.note s).adMarks = s.adMarks := rfl
@[simp] theorem Event.note_draws (e : Event) (s : State) : (e.note s).draws = s.draws := rfl
@[simp] theorem Event.note_cur (e : Event) (s : State) : (e.note s).cur = s.cur := rfl
@[simp] theorem Event.note_repBusy (e : Event) (s : State) : (e.note s).repBusy = s.repBusy := rfl
@[simp] theorem Event.note_redeliver (e : Event) (s : State) : (e.note s).redeliver = s.redeliver := rfl
@[simp] theorem Event.note_lastIo (e : Event) (s : State) : (e.note s).lastIo = s.lastIo := rfl
@[simp] theorem Event.note_ioOut (e : Event) (s : State) : (e.note s).ioOut = s.ioOut := rfl

/-! ### latchThermal -/
@[simp] theorem State.latchThermal_gpr (s : State) : (s.latchThermal).gpr = s.gpr := rfl
@[simp] theorem State.latchThermal_eip (s : State) : (s.latchThermal).eip = s.eip := rfl
@[simp] theorem State.latchThermal_eflags (s : State) : (s.latchThermal).eflags = s.eflags := rfl
@[simp] theorem State.latchThermal_es (s : State) : (s.latchThermal).es = s.es := rfl
@[simp] theorem State.latchThermal_cs (s : State) : (s.latchThermal).cs = s.cs := rfl
@[simp] theorem State.latchThermal_ss (s : State) : (s.latchThermal).ss = s.ss := rfl
@[simp] theorem State.latchThermal_ds (s : State) : (s.latchThermal).ds = s.ds := rfl
@[simp] theorem State.latchThermal_fs (s : State) : (s.latchThermal).fs = s.fs := rfl
@[simp] theorem State.latchThermal_gs (s : State) : (s.latchThermal).gs = s.gs := rfl
@[simp] theorem State.latchThermal_cpl (s : State) : (s.latchThermal).cpl = s.cpl := rfl
@[simp] theorem State.latchThermal_gdtr (s : State) : (s.latchThermal).gdtr = s.gdtr := rfl
@[simp] theorem State.latchThermal_idtr (s : State) : (s.latchThermal).idtr = s.idtr := rfl
@[simp] theorem State.latchThermal_ldtr (s : State) : (s.latchThermal).ldtr = s.ldtr := rfl
@[simp] theorem State.latchThermal_tr (s : State) : (s.latchThermal).tr = s.tr := rfl
@[simp] theorem State.latchThermal_cr0 (s : State) : (s.latchThermal).cr0 = s.cr0 := rfl
@[simp] theorem State.latchThermal_cr2 (s : State) : (s.latchThermal).cr2 = s.cr2 := rfl
@[simp] theorem State.latchThermal_cr3 (s : State) : (s.latchThermal).cr3 = s.cr3 := rfl
@[simp] theorem State.latchThermal_cr4 (s : State) : (s.latchThermal).cr4 = s.cr4 := rfl
@[simp] theorem State.latchThermal_pdpte (s : State) : (s.latchThermal).pdpte = s.pdpte := rfl
@[simp] theorem State.latchThermal_dr0 (s : State) : (s.latchThermal).dr0 = s.dr0 := rfl
@[simp] theorem State.latchThermal_dr1 (s : State) : (s.latchThermal).dr1 = s.dr1 := rfl
@[simp] theorem State.latchThermal_dr2 (s : State) : (s.latchThermal).dr2 = s.dr2 := rfl
@[simp] theorem State.latchThermal_dr3 (s : State) : (s.latchThermal).dr3 = s.dr3 := rfl
@[simp] theorem State.latchThermal_dr6 (s : State) : (s.latchThermal).dr6 = s.dr6 := rfl
@[simp] theorem State.latchThermal_dr7 (s : State) : (s.latchThermal).dr7 = s.dr7 := rfl
@[simp] theorem State.latchThermal_fpu (s : State) : (s.latchThermal).fpu = s.fpu := rfl
@[simp] theorem State.latchThermal_xmm (s : State) : (s.latchThermal).xmm = s.xmm := rfl
@[simp] theorem State.latchThermal_mxcsr (s : State) : (s.latchThermal).mxcsr = s.mxcsr := rfl
@[simp] theorem State.latchThermal_activity (s : State) : (s.latchThermal).activity = s.activity := rfl
@[simp] theorem State.latchThermal_monitor (s : State) : (s.latchThermal).monitor = s.monitor := rfl
@[simp] theorem State.latchThermal_ssShadow (s : State) : (s.latchThermal).ssShadow = s.ssShadow := rfl
@[simp] theorem State.latchThermal_stiShadow (s : State) : (s.latchThermal).stiShadow = s.stiShadow := rfl
@[simp] theorem State.latchThermal_nmiBlocked (s : State) : (s.latchThermal).nmiBlocked = s.nmiBlocked := rfl
@[simp] theorem State.latchThermal_traps (s : State) : (s.latchThermal).traps = s.traps := rfl
@[simp] theorem State.latchThermal_msr (s : State) : (s.latchThermal).msr = { s.msr with thermStatus := if s.msr.thermStatus.getLsbD 0 then setBit s.msr.thermStatus 1 true else s.msr.thermStatus } := rfl
@[simp] theorem State.latchThermal_apic (s : State) : (s.latchThermal).apic = s.apic := rfl
@[simp] theorem State.latchThermal_tlb (s : State) : (s.latchThermal).tlb = s.tlb := rfl
@[simp] theorem State.latchThermal_inSmm (s : State) : (s.latchThermal).inSmm = s.inSmm := rfl
@[simp] theorem State.latchThermal_smbase (s : State) : (s.latchThermal).smbase = s.smbase := rfl
@[simp] theorem State.latchThermal_smmDump (s : State) : (s.latchThermal).smmDump = s.smmDump := rfl
@[simp] theorem State.latchThermal_smmRestart (s : State) : (s.latchThermal).smmRestart = s.smmRestart := rfl
@[simp] theorem State.latchThermal_ucode (s : State) : (s.latchThermal).ucode = s.ucode := rfl
@[simp] theorem State.latchThermal_pending (s : State) : (s.latchThermal).pending = s.pending := rfl
@[simp] theorem State.latchThermal_mem (s : State) : (s.latchThermal).mem = s.mem := rfl
@[simp] theorem State.latchThermal_adMarks (s : State) : (s.latchThermal).adMarks = s.adMarks := rfl
@[simp] theorem State.latchThermal_draws (s : State) : (s.latchThermal).draws = s.draws := rfl
@[simp] theorem State.latchThermal_cur (s : State) : (s.latchThermal).cur = s.cur := rfl
@[simp] theorem State.latchThermal_repBusy (s : State) : (s.latchThermal).repBusy = s.repBusy := rfl
@[simp] theorem State.latchThermal_redeliver (s : State) : (s.latchThermal).redeliver = s.redeliver := rfl
@[simp] theorem State.latchThermal_lastIo (s : State) : (s.latchThermal).lastIo = s.lastIo := rfl
@[simp] theorem State.latchThermal_ioOut (s : State) : (s.latchThermal).ioOut = s.ioOut := rfl

/-! ### writeReg and setSeg -/
@[simp] theorem State.writeReg_eip (s : State) (sz : Sz) (r : RegNum) (v : BitVec sz.bits) :
    (s.writeReg sz r v).eip = s.eip := by
  cases sz <;> simp only [State.writeReg] <;> (try split) <;> rfl
@[simp] theorem State.writeReg_eflags (s : State) (sz : Sz) (r : RegNum) (v : BitVec sz.bits) :
    (s.writeReg sz r v).eflags = s.eflags := by
  cases sz <;> simp only [State.writeReg] <;> (try split) <;> rfl
@[simp] theorem State.writeReg_es (s : State) (sz : Sz) (r : RegNum) (v : BitVec sz.bits) :
    (s.writeReg sz r v).es = s.es := by
  cases sz <;> simp only [State.writeReg] <;> (try split) <;> rfl
@[simp] theorem State.writeReg_cs (s : State) (sz : Sz) (r : RegNum) (v : BitVec sz.bits) :
    (s.writeReg sz r v).cs = s.cs := by
  cases sz <;> simp only [State.writeReg] <;> (try split) <;> rfl
@[simp] theorem State.writeReg_ss (s : State) (sz : Sz) (r : RegNum) (v : BitVec sz.bits) :
    (s.writeReg sz r v).ss = s.ss := by
  cases sz <;> simp only [State.writeReg] <;> (try split) <;> rfl
@[simp] theorem State.writeReg_ds (s : State) (sz : Sz) (r : RegNum) (v : BitVec sz.bits) :
    (s.writeReg sz r v).ds = s.ds := by
  cases sz <;> simp only [State.writeReg] <;> (try split) <;> rfl
@[simp] theorem State.writeReg_fs (s : State) (sz : Sz) (r : RegNum) (v : BitVec sz.bits) :
    (s.writeReg sz r v).fs = s.fs := by
  cases sz <;> simp only [State.writeReg] <;> (try split) <;> rfl
@[simp] theorem State.writeReg_gs (s : State) (sz : Sz) (r : RegNum) (v : BitVec sz.bits) :
    (s.writeReg sz r v).gs = s.gs := by
  cases sz <;> simp only [State.writeReg] <;> (try split) <;> rfl
@[simp] theorem State.writeReg_cpl (s : State) (sz : Sz) (r : RegNum) (v : BitVec sz.bits) :
    (s.writeReg sz r v).cpl = s.cpl := by
  cases sz <;> simp only [State.writeReg] <;> (try split) <;> rfl
@[simp] theorem State.writeReg_gdtr (s : State) (sz : Sz) (r : RegNum) (v : BitVec sz.bits) :
    (s.writeReg sz r v).gdtr = s.gdtr := by
  cases sz <;> simp only [State.writeReg] <;> (try split) <;> rfl
@[simp] theorem State.writeReg_idtr (s : State) (sz : Sz) (r : RegNum) (v : BitVec sz.bits) :
    (s.writeReg sz r v).idtr = s.idtr := by
  cases sz <;> simp only [State.writeReg] <;> (try split) <;> rfl
@[simp] theorem State.writeReg_ldtr (s : State) (sz : Sz) (r : RegNum) (v : BitVec sz.bits) :
    (s.writeReg sz r v).ldtr = s.ldtr := by
  cases sz <;> simp only [State.writeReg] <;> (try split) <;> rfl
@[simp] theorem State.writeReg_tr (s : State) (sz : Sz) (r : RegNum) (v : BitVec sz.bits) :
    (s.writeReg sz r v).tr = s.tr := by
  cases sz <;> simp only [State.writeReg] <;> (try split) <;> rfl
@[simp] theorem State.writeReg_cr0 (s : State) (sz : Sz) (r : RegNum) (v : BitVec sz.bits) :
    (s.writeReg sz r v).cr0 = s.cr0 := by
  cases sz <;> simp only [State.writeReg] <;> (try split) <;> rfl
@[simp] theorem State.writeReg_cr2 (s : State) (sz : Sz) (r : RegNum) (v : BitVec sz.bits) :
    (s.writeReg sz r v).cr2 = s.cr2 := by
  cases sz <;> simp only [State.writeReg] <;> (try split) <;> rfl
@[simp] theorem State.writeReg_cr3 (s : State) (sz : Sz) (r : RegNum) (v : BitVec sz.bits) :
    (s.writeReg sz r v).cr3 = s.cr3 := by
  cases sz <;> simp only [State.writeReg] <;> (try split) <;> rfl
@[simp] theorem State.writeReg_cr4 (s : State) (sz : Sz) (r : RegNum) (v : BitVec sz.bits) :
    (s.writeReg sz r v).cr4 = s.cr4 := by
  cases sz <;> simp only [State.writeReg] <;> (try split) <;> rfl
@[simp] theorem State.writeReg_pdpte (s : State) (sz : Sz) (r : RegNum) (v : BitVec sz.bits) :
    (s.writeReg sz r v).pdpte = s.pdpte := by
  cases sz <;> simp only [State.writeReg] <;> (try split) <;> rfl
@[simp] theorem State.writeReg_dr0 (s : State) (sz : Sz) (r : RegNum) (v : BitVec sz.bits) :
    (s.writeReg sz r v).dr0 = s.dr0 := by
  cases sz <;> simp only [State.writeReg] <;> (try split) <;> rfl
@[simp] theorem State.writeReg_dr1 (s : State) (sz : Sz) (r : RegNum) (v : BitVec sz.bits) :
    (s.writeReg sz r v).dr1 = s.dr1 := by
  cases sz <;> simp only [State.writeReg] <;> (try split) <;> rfl
@[simp] theorem State.writeReg_dr2 (s : State) (sz : Sz) (r : RegNum) (v : BitVec sz.bits) :
    (s.writeReg sz r v).dr2 = s.dr2 := by
  cases sz <;> simp only [State.writeReg] <;> (try split) <;> rfl
@[simp] theorem State.writeReg_dr3 (s : State) (sz : Sz) (r : RegNum) (v : BitVec sz.bits) :
    (s.writeReg sz r v).dr3 = s.dr3 := by
  cases sz <;> simp only [State.writeReg] <;> (try split) <;> rfl
@[simp] theorem State.writeReg_dr6 (s : State) (sz : Sz) (r : RegNum) (v : BitVec sz.bits) :
    (s.writeReg sz r v).dr6 = s.dr6 := by
  cases sz <;> simp only [State.writeReg] <;> (try split) <;> rfl
@[simp] theorem State.writeReg_dr7 (s : State) (sz : Sz) (r : RegNum) (v : BitVec sz.bits) :
    (s.writeReg sz r v).dr7 = s.dr7 := by
  cases sz <;> simp only [State.writeReg] <;> (try split) <;> rfl
@[simp] theorem State.writeReg_fpu (s : State) (sz : Sz) (r : RegNum) (v : BitVec sz.bits) :
    (s.writeReg sz r v).fpu = s.fpu := by
  cases sz <;> simp only [State.writeReg] <;> (try split) <;> rfl
@[simp] theorem State.writeReg_xmm (s : State) (sz : Sz) (r : RegNum) (v : BitVec sz.bits) :
    (s.writeReg sz r v).xmm = s.xmm := by
  cases sz <;> simp only [State.writeReg] <;> (try split) <;> rfl
@[simp] theorem State.writeReg_mxcsr (s : State) (sz : Sz) (r : RegNum) (v : BitVec sz.bits) :
    (s.writeReg sz r v).mxcsr = s.mxcsr := by
  cases sz <;> simp only [State.writeReg] <;> (try split) <;> rfl
@[simp] theorem State.writeReg_activity (s : State) (sz : Sz) (r : RegNum) (v : BitVec sz.bits) :
    (s.writeReg sz r v).activity = s.activity := by
  cases sz <;> simp only [State.writeReg] <;> (try split) <;> rfl
@[simp] theorem State.writeReg_monitor (s : State) (sz : Sz) (r : RegNum) (v : BitVec sz.bits) :
    (s.writeReg sz r v).monitor = s.monitor := by
  cases sz <;> simp only [State.writeReg] <;> (try split) <;> rfl
@[simp] theorem State.writeReg_ssShadow (s : State) (sz : Sz) (r : RegNum) (v : BitVec sz.bits) :
    (s.writeReg sz r v).ssShadow = s.ssShadow := by
  cases sz <;> simp only [State.writeReg] <;> (try split) <;> rfl
@[simp] theorem State.writeReg_stiShadow (s : State) (sz : Sz) (r : RegNum) (v : BitVec sz.bits) :
    (s.writeReg sz r v).stiShadow = s.stiShadow := by
  cases sz <;> simp only [State.writeReg] <;> (try split) <;> rfl
@[simp] theorem State.writeReg_nmiBlocked (s : State) (sz : Sz) (r : RegNum) (v : BitVec sz.bits) :
    (s.writeReg sz r v).nmiBlocked = s.nmiBlocked := by
  cases sz <;> simp only [State.writeReg] <;> (try split) <;> rfl
@[simp] theorem State.writeReg_traps (s : State) (sz : Sz) (r : RegNum) (v : BitVec sz.bits) :
    (s.writeReg sz r v).traps = s.traps := by
  cases sz <;> simp only [State.writeReg] <;> (try split) <;> rfl
@[simp] theorem State.writeReg_msr (s : State) (sz : Sz) (r : RegNum) (v : BitVec sz.bits) :
    (s.writeReg sz r v).msr = s.msr := by
  cases sz <;> simp only [State.writeReg] <;> (try split) <;> rfl
@[simp] theorem State.writeReg_apic (s : State) (sz : Sz) (r : RegNum) (v : BitVec sz.bits) :
    (s.writeReg sz r v).apic = s.apic := by
  cases sz <;> simp only [State.writeReg] <;> (try split) <;> rfl
@[simp] theorem State.writeReg_tlb (s : State) (sz : Sz) (r : RegNum) (v : BitVec sz.bits) :
    (s.writeReg sz r v).tlb = s.tlb := by
  cases sz <;> simp only [State.writeReg] <;> (try split) <;> rfl
@[simp] theorem State.writeReg_inSmm (s : State) (sz : Sz) (r : RegNum) (v : BitVec sz.bits) :
    (s.writeReg sz r v).inSmm = s.inSmm := by
  cases sz <;> simp only [State.writeReg] <;> (try split) <;> rfl
@[simp] theorem State.writeReg_smbase (s : State) (sz : Sz) (r : RegNum) (v : BitVec sz.bits) :
    (s.writeReg sz r v).smbase = s.smbase := by
  cases sz <;> simp only [State.writeReg] <;> (try split) <;> rfl
@[simp] theorem State.writeReg_smmDump (s : State) (sz : Sz) (r : RegNum) (v : BitVec sz.bits) :
    (s.writeReg sz r v).smmDump = s.smmDump := by
  cases sz <;> simp only [State.writeReg] <;> (try split) <;> rfl
@[simp] theorem State.writeReg_smmRestart (s : State) (sz : Sz) (r : RegNum) (v : BitVec sz.bits) :
    (s.writeReg sz r v).smmRestart = s.smmRestart := by
  cases sz <;> simp only [State.writeReg] <;> (try split) <;> rfl
@[simp] theorem State.writeReg_ucode (s : State) (sz : Sz) (r : RegNum) (v : BitVec sz.bits) :
    (s.writeReg sz r v).ucode = s.ucode := by
  cases sz <;> simp only [State.writeReg] <;> (try split) <;> rfl
@[simp] theorem State.writeReg_pending (s : State) (sz : Sz) (r : RegNum) (v : BitVec sz.bits) :
    (s.writeReg sz r v).pending = s.pending := by
  cases sz <;> simp only [State.writeReg] <;> (try split) <;> rfl
@[simp] theorem State.writeReg_mem (s : State) (sz : Sz) (r : RegNum) (v : BitVec sz.bits) :
    (s.writeReg sz r v).mem = s.mem := by
  cases sz <;> simp only [State.writeReg] <;> (try split) <;> rfl
@[simp] theorem State.writeReg_adMarks (s : State) (sz : Sz) (r : RegNum) (v : BitVec sz.bits) :
    (s.writeReg sz r v).adMarks = s.adMarks := by
  cases sz <;> simp only [State.writeReg] <;> (try split) <;> rfl
@[simp] theorem State.writeReg_draws (s : State) (sz : Sz) (r : RegNum) (v : BitVec sz.bits) :
    (s.writeReg sz r v).draws = s.draws := by
  cases sz <;> simp only [State.writeReg] <;> (try split) <;> rfl
@[simp] theorem State.writeReg_cur (s : State) (sz : Sz) (r : RegNum) (v : BitVec sz.bits) :
    (s.writeReg sz r v).cur = s.cur := by
  cases sz <;> simp only [State.writeReg] <;> (try split) <;> rfl
@[simp] theorem State.writeReg_repBusy (s : State) (sz : Sz) (r : RegNum) (v : BitVec sz.bits) :
    (s.writeReg sz r v).repBusy = s.repBusy := by
  cases sz <;> simp only [State.writeReg] <;> (try split) <;> rfl
@[simp] theorem State.writeReg_redeliver (s : State) (sz : Sz) (r : RegNum) (v : BitVec sz.bits) :
    (s.writeReg sz r v).redeliver = s.redeliver := by
  cases sz <;> simp only [State.writeReg] <;> (try split) <;> rfl
@[simp] theorem State.writeReg_lastIo (s : State) (sz : Sz) (r : RegNum) (v : BitVec sz.bits) :
    (s.writeReg sz r v).lastIo = s.lastIo := by
  cases sz <;> simp only [State.writeReg] <;> (try split) <;> rfl
@[simp] theorem State.writeReg_ioOut (s : State) (sz : Sz) (r : RegNum) (v : BitVec sz.bits) :
    (s.writeReg sz r v).ioOut = s.ioOut := by
  cases sz <;> simp only [State.writeReg] <;> (try split) <;> rfl
@[simp] theorem State.setSeg_gpr (s : State) (r : SegReg) (sg : Seg) : (s.setSeg r sg).gpr = s.gpr := by
  cases sg <;> rfl
@[simp] theorem State.setSeg_eip (s : State) (r : SegReg) (sg : Seg) : (s.setSeg r sg).eip = s.eip := by
  cases sg <;> rfl
@[simp] theorem State.setSeg_eflags (s : State) (r : SegReg) (sg : Seg) : (s.setSeg r sg).eflags = s.eflags := by
  cases sg <;> rfl
@[simp] theorem State.setSeg_cpl (s : State) (r : SegReg) (sg : Seg) : (s.setSeg r sg).cpl = s.cpl := by
  cases sg <;> rfl
@[simp] theorem State.setSeg_gdtr (s : State) (r : SegReg) (sg : Seg) : (s.setSeg r sg).gdtr = s.gdtr := by
  cases sg <;> rfl
@[simp] theorem State.setSeg_idtr (s : State) (r : SegReg) (sg : Seg) : (s.setSeg r sg).idtr = s.idtr := by
  cases sg <;> rfl
@[simp] theorem State.setSeg_ldtr (s : State) (r : SegReg) (sg : Seg) : (s.setSeg r sg).ldtr = s.ldtr := by
  cases sg <;> rfl
@[simp] theorem State.setSeg_tr (s : State) (r : SegReg) (sg : Seg) : (s.setSeg r sg).tr = s.tr := by
  cases sg <;> rfl
@[simp] theorem State.setSeg_cr0 (s : State) (r : SegReg) (sg : Seg) : (s.setSeg r sg).cr0 = s.cr0 := by
  cases sg <;> rfl
@[simp] theorem State.setSeg_cr2 (s : State) (r : SegReg) (sg : Seg) : (s.setSeg r sg).cr2 = s.cr2 := by
  cases sg <;> rfl
@[simp] theorem State.setSeg_cr3 (s : State) (r : SegReg) (sg : Seg) : (s.setSeg r sg).cr3 = s.cr3 := by
  cases sg <;> rfl
@[simp] theorem State.setSeg_cr4 (s : State) (r : SegReg) (sg : Seg) : (s.setSeg r sg).cr4 = s.cr4 := by
  cases sg <;> rfl
@[simp] theorem State.setSeg_pdpte (s : State) (r : SegReg) (sg : Seg) : (s.setSeg r sg).pdpte = s.pdpte := by
  cases sg <;> rfl
@[simp] theorem State.setSeg_dr0 (s : State) (r : SegReg) (sg : Seg) : (s.setSeg r sg).dr0 = s.dr0 := by
  cases sg <;> rfl
@[simp] theorem State.setSeg_dr1 (s : State) (r : SegReg) (sg : Seg) : (s.setSeg r sg).dr1 = s.dr1 := by
  cases sg <;> rfl
@[simp] theorem State.setSeg_dr2 (s : State) (r : SegReg) (sg : Seg) : (s.setSeg r sg).dr2 = s.dr2 := by
  cases sg <;> rfl
@[simp] theorem State.setSeg_dr3 (s : State) (r : SegReg) (sg : Seg) : (s.setSeg r sg).dr3 = s.dr3 := by
  cases sg <;> rfl
@[simp] theorem State.setSeg_dr6 (s : State) (r : SegReg) (sg : Seg) : (s.setSeg r sg).dr6 = s.dr6 := by
  cases sg <;> rfl
@[simp] theorem State.setSeg_dr7 (s : State) (r : SegReg) (sg : Seg) : (s.setSeg r sg).dr7 = s.dr7 := by
  cases sg <;> rfl
@[simp] theorem State.setSeg_fpu (s : State) (r : SegReg) (sg : Seg) : (s.setSeg r sg).fpu = s.fpu := by
  cases sg <;> rfl
@[simp] theorem State.setSeg_xmm (s : State) (r : SegReg) (sg : Seg) : (s.setSeg r sg).xmm = s.xmm := by
  cases sg <;> rfl
@[simp] theorem State.setSeg_mxcsr (s : State) (r : SegReg) (sg : Seg) : (s.setSeg r sg).mxcsr = s.mxcsr := by
  cases sg <;> rfl
@[simp] theorem State.setSeg_activity (s : State) (r : SegReg) (sg : Seg) : (s.setSeg r sg).activity = s.activity := by
  cases sg <;> rfl
@[simp] theorem State.setSeg_monitor (s : State) (r : SegReg) (sg : Seg) : (s.setSeg r sg).monitor = s.monitor := by
  cases sg <;> rfl
@[simp] theorem State.setSeg_ssShadow (s : State) (r : SegReg) (sg : Seg) : (s.setSeg r sg).ssShadow = s.ssShadow := by
  cases sg <;> rfl
@[simp] theorem State.setSeg_stiShadow (s : State) (r : SegReg) (sg : Seg) : (s.setSeg r sg).stiShadow = s.stiShadow := by
  cases sg <;> rfl
@[simp] theorem State.setSeg_nmiBlocked (s : State) (r : SegReg) (sg : Seg) : (s.setSeg r sg).nmiBlocked = s.nmiBlocked := by
  cases sg <;> rfl
@[simp] theorem State.setSeg_traps (s : State) (r : SegReg) (sg : Seg) : (s.setSeg r sg).traps = s.traps := by
  cases sg <;> rfl
@[simp] theorem State.setSeg_msr (s : State) (r : SegReg) (sg : Seg) : (s.setSeg r sg).msr = s.msr := by
  cases sg <;> rfl
@[simp] theorem State.setSeg_apic (s : State) (r : SegReg) (sg : Seg) : (s.setSeg r sg).apic = s.apic := by
  cases sg <;> rfl
@[simp] theorem State.setSeg_tlb (s : State) (r : SegReg) (sg : Seg) : (s.setSeg r sg).tlb = s.tlb := by
  cases sg <;> rfl
@[simp] theorem State.setSeg_inSmm (s : State) (r : SegReg) (sg : Seg) : (s.setSeg r sg).inSmm = s.inSmm := by
  cases sg <;> rfl
@[simp] theorem State.setSeg_smbase (s : State) (r : SegReg) (sg : Seg) : (s.setSeg r sg).smbase = s.smbase := by
  cases sg <;> rfl
@[simp] theorem State.setSeg_smmDump (s : State) (r : SegReg) (sg : Seg) : (s.setSeg r sg).smmDump = s.smmDump := by
  cases sg <;> rfl
@[simp] theorem State.setSeg_smmRestart (s : State) (r : SegReg) (sg : Seg) : (s.setSeg r sg).smmRestart = s.smmRestart := by
  cases sg <;> rfl
@[simp] theorem State.setSeg_ucode (s : State) (r : SegReg) (sg : Seg) : (s.setSeg r sg).ucode = s.ucode := by
  cases sg <;> rfl
@[simp] theorem State.setSeg_pending (s : State) (r : SegReg) (sg : Seg) : (s.setSeg r sg).pending = s.pending := by
  cases sg <;> rfl
@[simp] theorem State.setSeg_mem (s : State) (r : SegReg) (sg : Seg) : (s.setSeg r sg).mem = s.mem := by
  cases sg <;> rfl
@[simp] theorem State.setSeg_adMarks (s : State) (r : SegReg) (sg : Seg) : (s.setSeg r sg).adMarks = s.adMarks := by
  cases sg <;> rfl
@[simp] theorem State.setSeg_draws (s : State) (r : SegReg) (sg : Seg) : (s.setSeg r sg).draws = s.draws := by
  cases sg <;> rfl
@[simp] theorem State.setSeg_cur (s : State) (r : SegReg) (sg : Seg) : (s.setSeg r sg).cur = s.cur := by
  cases sg <;> rfl
@[simp] theorem State.setSeg_repBusy (s : State) (r : SegReg) (sg : Seg) : (s.setSeg r sg).repBusy = s.repBusy := by
  cases sg <;> rfl
@[simp] theorem State.setSeg_redeliver (s : State) (r : SegReg) (sg : Seg) : (s.setSeg r sg).redeliver = s.redeliver := by
  cases sg <;> rfl
@[simp] theorem State.setSeg_lastIo (s : State) (r : SegReg) (sg : Seg) : (s.setSeg r sg).lastIo = s.lastIo := by
  cases sg <;> rfl
@[simp] theorem State.setSeg_ioOut (s : State) (r : SegReg) (sg : Seg) : (s.setSeg r sg).ioOut = s.ioOut := by
  cases sg <;> rfl

@[simp] theorem State.setSeg_seg (s : State) (r : SegReg) (sg : Seg) : (s.setSeg r sg).seg sg = r := by cases sg <;> rfl
theorem State.setSeg_seg_other (s : State) (r : SegReg) (sg sg2 : Seg) (h : sg2 ≠ sg) : (s.setSeg r sg).seg sg2 = s.seg sg2 := by
  cases sg <;> cases sg2 <;> first | rfl | exact absurd rfl h

/-! ### Register files -/
/-- A three-bit number is one of eight. -/
theorem regNum_cases (i : RegNum) : i = 0 ∨ i = 1 ∨ i = 2 ∨ i = 3 ∨ i = 4 ∨ i = 5 ∨ i = 6 ∨ i = 7 := by
  revert i; decide

@[simp] theorem Eight.get_set_same {α : Type} (f : Eight α) (i : RegNum) (x : α) : (f.set i x).get i = x := by
  rcases regNum_cases i with h | h | h | h | h | h | h | h <;> subst h <;> rfl

theorem Eight.get_set_other {α : Type} (f : Eight α) (i j : RegNum) (x : α) (h : j ≠ i) : (f.set i x).get j = f.get j := by
  rcases regNum_cases i with hi | hi | hi | hi | hi | hi | hi | hi <;> subst hi <;>
    rcases regNum_cases j with hj | hj | hj | hj | hj | hj | hj | hj <;> subst hj <;> first | rfl | exact absurd rfl h

/-! ### Flags -/
theorem setBit_same {w : Nat} (x : BitVec w) (i : Nat) (v : Bool) (h : i < w) : (setBit x i v).getLsbD i = v := by
  cases v <;> simp [setBit, h]
theorem setBit_other {w : Nat} (x : BitVec w) (i j : Nat) (v : Bool) (h : j ≠ i) : (setBit x i v).getLsbD j = x.getLsbD j := by
  by_cases hj : j < w
  · cases v <;> simp [setBit, hj] <;> omega
  · rw [BitVec.getLsbD_of_ge _ _ (by omega), BitVec.getLsbD_of_ge _ _ (by omega)]
@[simp] theorem State.flag_setFlag_same (s : State) (i : Nat) (v : Bool) (h : i < 32) : (s.setFlag i v).flag i = v :=
  setBit_same _ _ _ h
theorem State.flag_setFlag_other (s : State) (i j : Nat) (v : Bool) (h : j ≠ i) : (s.setFlag i v).flag j = s.flag j :=
  setBit_other _ _ _ _ h

end Sys2Proof.Machine
end

