-- ==== Sys2Proof/Tests/Slice0.lean ====
section
/-! SUPPORT. The model's own tests: ill-formed terms refused; the opcode table's words decoded; one step on worked examples
of the spec (the rules' own examples and 95_test_vectors, cited by their numbers); and for every statement with premises
states and operands that meet them. -/
namespace Sys2Proof.Tests
open Machine Claims
set_option Elab.async false
noncomputable section

/-! ## Well-formedness: one ill-formed term for each check, each beside a well-formed neighbour -/

/-- The three memory forms that no ModR/M byte encodes. -/
def badMem : List MemRef := [.base16 6 .none, .base32 4 .none, .base32 5 .none, .sib 0 0 5 .none]
def bad : MemRef := .base16 6 .none

theorem test_wf_memory : (badMem.all fun m => !m.wf) = true ∧
    ([.base16 6 (.d8 0), .base32 5 (.d8 0), .sib 0 0 5 (.d32 0), .base16 2 .none, .base32 3 .none, .sibAbs 0 4 0] : List MemRef).all
      MemRef.wf = true := by decide

theorem test_wf_refuses_bad_operands : ([
    .add (.rmReg true (.mem bad) 0), .or (.regRm true 0 (.mem bad)), .adc (.rmImm true true (.mem bad) (.i8 0)),
    .inc (.rm true (.mem bad)), .test (.rmReg true (.mem bad) 0), .test (.rmImm (.mem bad) (.i8 0)), .not true (.mem bad),
    .rol (.one true (.mem bad)), .shl (.cl true (.mem bad)), .sar (.imm true (.mem bad) 1), .shld (.imm (.mem bad) 0 1),
    .shrd (.cl (.mem bad) 0), .bt (.imm (.mem bad) 0), .btc (.reg (.mem bad) 0), .bsf 0 (.mem bad), .setcc 0 (.mem bad),
    .xadd true (.mem bad) 0, .cmpxchg8b bad, .mov (.rmReg true (.mem bad) 0), .mov (.regRm true 0 (.mem bad)),
    .mov (.rmImm (.mem bad) (.i8 0)), .movToSeg .ds (.mem bad), .movFromSeg (.mem bad) .ds, .movsx true 0 (.mem bad),
    .xchg (.rmReg true (.mem bad) 0), .lea 0 bad, .push (.rm (.mem bad)), .pop (.rm (.mem bad)), .lds 0 bad,
    .jmp (.rm (.mem bad)), .jmpFar (.mem bad), .call (.rm (.mem bad)), .callFar (.mem bad), .bound 0 bad, .sgdt bad,
    .smsw (.mem bad), .lldt (.mem bad), .fadd (.m32 bad), .fadd (.m64 bad), .fcom (.m32 bad), .fcom (.m64 bad), .fld (.m32 bad),
    .fld (.m64 bad), .fld (.m80 bad), .fiadd (.m16 bad), .fiadd (.m32 bad), .fild (.m16 bad), .fild (.m32 bad),
    .fild (.m64 bad), .fbld bad, .fnstsw (.mem bad), .fxsave bad, .movd (.toMm 0 (.mem bad)), .movd (.fromMm (.mem bad) 0),
    .movd (.toXmm 0 (.mem bad)), .movd (.fromXmm (.mem bad) 0), .movq (.toMm 0 (.mem bad)), .movq (.fromMm (.mem bad) 0),
    .movq (.toXmm 0 (.mem bad)), .movq (.fromXmm (.mem bad) 0), .paddb (.mm 0 (.mem bad)), .paddb (.xmm 0 (.mem bad)),
    .psllw (.by (.mm 0 (.mem bad))), .pinsrw (.mm 0 (.mem bad)) 0, .pshufd 0 (.mem bad) 0, .movntq bad 0, .clflush bad,
    .movaps (.load 0 (.mem bad)), .movaps (.store (.mem bad) 0), .movlps (.load 0 bad), .movlps (.store bad 0),
    .addps 0 (.mem bad), .ldmxcsr bad, .lddqu 0 bad] : List Instr).all (fun i => !i.wf) = true := by decide

theorem test_wf_refuses_bad_codes : ([
    .add (.rmImm false true (.reg 0) (.i8 1)), .sub (.rmImm true true (.reg 0) (.i32 1)), .cmp (.rmImm false false (.reg 0) (.i16 1)),
    .xchg (.acc 0), .pop (.seg .cs), .movToSeg .cs (.reg 0), .call (.rel (.i8 0))] : List Instr).all (fun i => !i.wf) = true ∧
    ([.add (.rmImm false true (.reg 0) (.i32 1)), .sub (.rmImm true true (.reg 0) (.i8 1)), .cmp (.rmImm false false (.reg 0) (.i8 1)),
      .xchg (.acc 1), .pop (.seg .ds), .movToSeg .ss (.reg 0), .call (.rel (.i32 0))] : List Instr).all Instr.wf = true := by decide

/-- Terms that 32-bit attributes do not decode, and the same with 16-bit ones. -/
theorem test_fits_attributes : ([
    .add (.accImm (.i16 1)), .add (.rmReg true (.mem (.base16 0 .none)) 0), .mov (.regRm true 0 (.mem (.abs16 0))),
    .movFromOffs true (.o16 0), .jmpFar (.ptr (.p16 0 0)), .jmp (.rel (.i16 0)), .push (.imm (.i16 0)), .imulImm 0 (.reg 0) (.i16 0),
    .movaps (.load 0 (.mem (.abs16 0))), .fadd (.m32 (.abs16 0))] : List Instr).all
      (fun i => i.wf && !i.fits true true && i.fits false false) = true := by decide

/-! ## The words of the opcode table

Each list holds bytes written out from the encoding of a row of the opcode table (fixed bits as the row gives them, a
register or a memory operand chosen), the instruction they stand for, and its length; every constructor occurs. Operand
and address size are 32 bits. -/

def decodesAll (l : List (List Byte × Instr × Nat)) : Bool :=
  l.all fun x => decide (decode { os32 := true, as32 := true } x.1 = .ok x.2.1 x.2.2)

/-- R305, steps 5 and 6: PEXTRW with a memory operand and Group 11 with reg other than 0 are rejected after their immediate. -/
theorem test_immediate_before_reserved :
    let read := decode { os32 := true, as32 := true }
    read [0x0F, 0xC5, 0x00] = .more ∧ read [0x0F, 0xC5, 0x00, 0x01] = .bad ∧
    read [0xC7, 0xC8, 1, 2, 3] = .more ∧ read [0xC7, 0xC8, 1, 2, 3, 4] = .bad ∧ read [0xC6, 0xC8] = .more := by decide +kernel

/-- R305, R360: a blank row of Groups 12 to 14 calls for no immediate. -/
theorem test_blank_row_has_no_immediate :
    let read := decode { os32 := true, as32 := true }
    read [0x0F, 0x71, 0xC1] = .bad ∧ read [0x0F, 0x73, 0xD9] = .bad ∧ read [0x0F, 0x73, 0xD1] = .more := by decide +kernel

theorem test_decode_rows_1 : decodesAll [
  ([0xF0], .lock, 1),
  ([0xF2, 0xA4], .repne, 1),
  ([0xF3, 0xA4], .rep, 1),
  ([0x2E], .csOverride, 1),
  ([0x36], .ssOverride, 1),
  ([0x3E], .dsOverride, 1),
  ([0x26], .esOverride, 1),
  ([0x64], .fsOverride, 1),
  ([0x65], .gsOverride, 1),
  ([0x66, 0x90], .opSizeOverride, 1),
  ([0x67], .addrSizeOverride, 1),
  ([0x01, 0xCA], .add (.rmReg true (.reg 2) 1), 2),
  ([0x09, 0xCA], .or (.rmReg true (.reg 2) 1), 2),
  ([0x11, 0xCA], .adc (.rmReg true (.reg 2) 1), 2),
  ([0x19, 0xCA], .sbb (.rmReg true (.reg 2) 1), 2),
  ([0x21, 0xCA], .and (.rmReg true (.reg 2) 1), 2),
  ([0x29, 0xCA], .sub (.rmReg true (.reg 2) 1), 2),
  ([0x31, 0xCA], .xor (.rmReg true (.reg 2) 1), 2),
  ([0x39, 0xCA], .cmp (.rmReg true (.reg 2) 1), 2),
  ([0xFF, 0xC2], .inc (.rm true (.reg 2)), 2),
  ([0xFF, 0xCA], .dec (.rm true (.reg 2)), 2),
  ([0xF7, 0xD2], .not true (.reg 2), 2),
  ([0xF7, 0xDA], .neg true (.reg 2), 2),
  ([0xF7, 0xE2], .mul true (.reg 2), 2),
  ([0xF7, 0xF2], .div true (.reg 2), 2),
  ([0xF7, 0xFA], .idiv true (.reg 2), 2)] = true := by decide

theorem test_decode_rows_2 : decodesAll [
  ([0xF6, 0xC2, 0x07], .test (.rmImm (.reg 2) (.i8 7)), 3),
  ([0xF7, 0xEA], .imulAcc true (.reg 2), 2),
  ([0x0F, 0xAF, 0xCA], .imulRm 1 (.reg 2), 3),
  ([0x6B, 0xCA, 0x80], .imulImm 1 (.reg 2) (.i8 0x80), 3),
  ([0xC1, 0xC2, 0x07], .rol (.imm true (.reg 2) 7), 3),
  ([0xC1, 0xCA, 0x07], .ror (.imm true (.reg 2) 7), 3),
  ([0xC1, 0xD2, 0x07], .rcl (.imm true (.reg 2) 7), 3),
  ([0xC1, 0xDA, 0x07], .rcr (.imm true (.reg 2) 7), 3),
  ([0xC1, 0xE2, 0x07], .shl (.imm true (.reg 2) 7), 3),
  ([0xC1, 0xEA, 0x07], .shr (.imm true (.reg 2) 7), 3),
  ([0xC1, 0xFA, 0x07], .sar (.imm true (.reg 2) 7), 3),
  ([0x0F, 0xA4, 0xCA, 0x07], .shld (.imm (.reg 2) 1 7), 4),
  ([0x0F, 0xAC, 0xCA, 0x07], .shrd (.imm (.reg 2) 1 7), 4),
  ([0x0F, 0xBA, 0xE2, 0x07], .bt (.imm (.reg 2) 7), 4),
  ([0x0F, 0xBA, 0xEA, 0x07], .bts (.imm (.reg 2) 7), 4),
  ([0x0F, 0xBA, 0xF2, 0x07], .btr (.imm (.reg 2) 7), 4),
  ([0x0F, 0xBA, 0xFA, 0x07], .btc (.imm (.reg 2) 7), 4),
  ([0x0F, 0xBC, 0xCA], .bsf 1 (.reg 2), 3),
  ([0x0F, 0xBD, 0xCA], .bsr 1 (.reg 2), 3),
  ([0x0F, 0xC9], .bswap 1, 2),
  ([0x0F, 0x95, 0xC2], .setcc 5 (.reg 2), 3),
  ([0x0F, 0xC1, 0xCA], .xadd true (.reg 2) 1, 3),
  ([0x0F, 0xB1, 0xCA], .cmpxchg true (.reg 2) 1, 3),
  ([0x0F, 0xC7, 0x4B, 0x10], .cmpxchg8b (.base32 3 (.d8 16)), 4),
  ([0xF8], .clc, 1),
  ([0xF9], .stc, 1)] = true := by decide

theorem test_decode_rows_3 : decodesAll [
  ([0xF5], .cmc, 1),
  ([0xFC], .cld, 1),
  ([0xFD], .std, 1),
  ([0x9F], .lahf, 1),
  ([0x9E], .sahf, 1),
  ([0x37], .aaa, 1),
  ([0x3F], .aas, 1),
  ([0x27], .daa, 1),
  ([0x2F], .das, 1),
  ([0xD4, 0x07], .aam 7, 2),
  ([0xD5, 0x07], .aad 7, 2),
  ([0x89, 0xCA], .mov (.rmReg true (.reg 2) 1), 2),
  ([0x8B, 0x4B, 0x10], .mov (.regRm true 1 (.mem (.base32 3 (.d8 16)))), 3),
  ([0xB1, 0x07], .mov (.regImm 1 (.i8 7)), 2),
  ([0xC7, 0xC2, 0x78, 0x56, 0x34, 0x12], .mov (.rmImm (.reg 2) (.i32 0x12345678)), 6),
  ([0xA1, 0x78, 0x56, 0x34, 0x12], .movFromOffs true (.o32 0x12345678), 5),
  ([0xA3, 0x78, 0x56, 0x34, 0x12], .movToOffs true (.o32 0x12345678), 5),
  ([0x8E, 0xDA], .movToSeg .ds (.reg 2), 2),
  ([0x8C, 0xDA], .movFromSeg (.reg 2) .ds, 2),
  ([0x0F, 0xBF, 0xCA], .movsx true 1 (.reg 2), 3),
  ([0x0F, 0xB7, 0xCA], .movzx true 1 (.reg 2), 3),
  ([0x91], .xchg (.acc 1), 1),
  ([0x90], .nop, 1),
  ([0x8D, 0x4B, 0x10], .lea 1 (.base32 3 (.d8 16)), 3),
  ([0x0F, 0x45, 0xCA], .cmovcc 5 1 (.reg 2), 3),
  ([0x98], .cbw, 1)] = true := by decide

theorem test_decode_rows_4 : decodesAll [
  ([0x99], .cwd, 1),
  ([0xD7], .xlat, 1),
  ([0x51], .push (.reg 1), 1),
  ([0x6A, 0x80], .push (.imm (.i8 0x80)), 2),
  ([0x0F, 0xA8], .push (.seg .gs), 2),
  ([0x8F, 0x43, 0x10], .pop (.rm (.mem (.base32 3 (.d8 16)))), 3),
  ([0x0F, 0xA1], .pop (.seg .fs), 2),
  ([0x60], .pusha, 1),
  ([0x61], .popa, 1),
  ([0x9C], .pushf, 1),
  ([0x9D], .popf, 1),
  ([0xC8, 0x34, 0x12, 0x05], .enter 0x1234 5, 4),
  ([0xC9], .leave, 1),
  ([0xC5, 0x4B, 0x10], .lds 1 (.base32 3 (.d8 16)), 3),
  ([0xC4, 0x4B, 0x10], .les 1 (.base32 3 (.d8 16)), 3),
  ([0x0F, 0xB2, 0x4B, 0x10], .lss 1 (.base32 3 (.d8 16)), 4),
  ([0x0F, 0xB4, 0x4B, 0x10], .lfs 1 (.base32 3 (.d8 16)), 4),
  ([0x0F, 0xB5, 0x4B, 0x10], .lgs 1 (.base32 3 (.d8 16)), 4),
  ([0xA5], .movs true, 1),
  ([0xA7], .cmps true, 1),
  ([0xAB], .stos true, 1),
  ([0xAD], .lods true, 1),
  ([0xAF], .scas true, 1),
  ([0x6D], .ins true, 1),
  ([0x6F], .outs true, 1),
  ([0xE5, 0x07], .inPort (.imm true 7), 2)] = true := by decide

theorem test_decode_rows_5 : decodesAll [
  ([0xE7, 0x07], .outPort (.imm true 7), 2),
  ([0xEB, 0xFE], .jmp (.rel (.i8 0xFE)), 2),
  ([0xFF, 0xE2], .jmp (.rm (.reg 2)), 2),
  ([0xEA, 0x78, 0x56, 0x34, 0x12, 0x10, 0x00], .jmpFar (.ptr (.p32 0x12345678 0x0010)), 7),
  ([0xFF, 0x6B, 0x10], .jmpFar (.mem (.base32 3 (.d8 16))), 3),
  ([0x75, 0xFE], .jcc 5 (.i8 0xFE), 2),
  ([0xE3, 0x07], .jcxz 7, 2),
  ([0xE2, 0x07], .loop 7, 2),
  ([0xE1, 0x07], .loope 7, 2),
  ([0xE0, 0x07], .loopne 7, 2),
  ([0xE8, 0x78, 0x56, 0x34, 0x12], .call (.rel (.i32 0x12345678)), 5),
  ([0xFF, 0x5B, 0x10], .callFar (.mem (.base32 3 (.d8 16))), 3),
  ([0xC2, 0x34, 0x12], .ret (some 0x1234), 3),
  ([0xCA, 0x34, 0x12], .retf (some 0x1234), 3),
  ([0xCD, 0x07], .int 7, 2),
  ([0xCC], .int3, 1),
  ([0xCE], .into, 1),
  ([0xCF], .iret, 1),
  ([0x62, 0x4B, 0x10], .bound 1 (.base32 3 (.d8 16)), 3),
  ([0x0F, 0x34], .sysenter, 2),
  ([0x0F, 0x35], .sysexit, 2),
  ([0x0F, 0x22, 0xDA], .movToCr 3 2, 3),
  ([0x0F, 0x20, 0xDA], .movFromCr 3 2, 3),
  ([0x0F, 0x23, 0xDA], .movToDr 3 2, 3),
  ([0x0F, 0x21, 0xDA], .movFromDr 3 2, 3),
  ([0x0F, 0x24, 0xDA], .movTest false 3 2, 3)] = true := by decide

theorem test_decode_rows_6 : decodesAll [
  ([0x0F, 0x26, 0xDA], .movTest true 3 2, 3),
  ([0x0F, 0x01, 0x43, 0x10], .sgdt (.base32 3 (.d8 16)), 4),
  ([0x0F, 0x01, 0x4B, 0x10], .sidt (.base32 3 (.d8 16)), 4),
  ([0x0F, 0x01, 0x53, 0x10], .lgdt (.base32 3 (.d8 16)), 4),
  ([0x0F, 0x01, 0x5B, 0x10], .lidt (.base32 3 (.d8 16)), 4),
  ([0x0F, 0x01, 0x7B, 0x10], .invlpg (.base32 3 (.d8 16)), 4),
  ([0x0F, 0x01, 0xE2], .smsw (.reg 2), 3),
  ([0x0F, 0x01, 0xF2], .lmsw (.reg 2), 3),
  ([0x0F, 0x00, 0xC2], .sldt (.reg 2), 3),
  ([0x0F, 0x00, 0xCA], .str (.reg 2), 3),
  ([0x0F, 0x00, 0xD2], .lldt (.reg 2), 3),
  ([0x0F, 0x00, 0xDA], .ltr (.reg 2), 3),
  ([0x0F, 0x00, 0xE2], .verr (.reg 2), 3),
  ([0x0F, 0x00, 0xEA], .verw (.reg 2), 3),
  ([0x0F, 0x02, 0xCA], .lar 1 (.reg 2), 3),
  ([0x0F, 0x03, 0xCA], .lsl 1 (.reg 2), 3),
  ([0x63, 0xCA], .arpl (.reg 2) 1, 2),
  ([0x0F, 0x01, 0xC8], .monitor, 3),
  ([0x0F, 0x01, 0xC9], .mwait, 3),
  ([0x0F, 0x06], .clts, 2),
  ([0x0F, 0x08], .invd, 2),
  ([0x0F, 0x09], .wbinvd, 2),
  ([0x0F, 0x0B], .ud2, 2),
  ([0x0F, 0xB9, 0xC0], .group10, 3),
  ([0x0F, 0x30], .wrmsr, 2),
  ([0x0F, 0x31], .rdtsc, 2)] = true := by decide

theorem test_decode_rows_7 : decodesAll [
  ([0x0F, 0x32], .rdmsr, 2),
  ([0x0F, 0x33], .rdpmc, 2),
  ([0x0F, 0xA2], .cpuid, 2),
  ([0x0F, 0xAA], .rsm, 2),
  ([0xFA], .cli, 1),
  ([0xFB], .sti, 1),
  ([0xF4], .hlt, 1),
  ([0xDC, 0x43, 0x10], .fadd (.m64 (.base32 3 (.d8 16))), 3),
  ([0xDC, 0xC5], .fadd (.sti 5), 2),
  ([0xDC, 0x4B, 0x10], .fmul (.m64 (.base32 3 (.d8 16))), 3),
  ([0xDC, 0xCD], .fmul (.sti 5), 2),
  ([0xDC, 0x63, 0x10], .fsub (.m64 (.base32 3 (.d8 16))), 3),
  ([0xDC, 0xED], .fsub (.sti 5), 2),
  ([0xDC, 0x6B, 0x10], .fsubr (.m64 (.base32 3 (.d8 16))), 3),
  ([0xDC, 0xE5], .fsubr (.sti 5), 2),
  ([0xDC, 0x73, 0x10], .fdiv (.m64 (.base32 3 (.d8 16))), 3),
  ([0xDC, 0xFD], .fdiv (.sti 5), 2),
  ([0xDC, 0x7B, 0x10], .fdivr (.m64 (.base32 3 (.d8 16))), 3),
  ([0xDC, 0xF5], .fdivr (.sti 5), 2),
  ([0xD8, 0x53, 0x10], .fcom (.m32 (.base32 3 (.d8 16))), 3),
  ([0xD8, 0x5B, 0x10], .fcomp (.m32 (.base32 3 (.d8 16))), 3),
  ([0xDE, 0x43, 0x10], .fiadd (.m16 (.base32 3 (.d8 16))), 3),
  ([0xDE, 0x4B, 0x10], .fimul (.m16 (.base32 3 (.d8 16))), 3),
  ([0xDE, 0x53, 0x10], .ficom (.m16 (.base32 3 (.d8 16))), 3),
  ([0xDE, 0x5B, 0x10], .ficomp (.m16 (.base32 3 (.d8 16))), 3),
  ([0xDE, 0x63, 0x10], .fisub (.m16 (.base32 3 (.d8 16))), 3)] = true := by decide

theorem test_decode_rows_8 : decodesAll [
  ([0xDE, 0x6B, 0x10], .fisubr (.m16 (.base32 3 (.d8 16))), 3),
  ([0xDE, 0x73, 0x10], .fidiv (.m16 (.base32 3 (.d8 16))), 3),
  ([0xDE, 0x7B, 0x10], .fidivr (.m16 (.base32 3 (.d8 16))), 3),
  ([0xDB, 0x6B, 0x10], .fld (.m80 (.base32 3 (.d8 16))), 3),
  ([0xD9, 0x53, 0x10], .fst (.m32 (.base32 3 (.d8 16))), 3),
  ([0xDB, 0x7B, 0x10], .fstp (.m80 (.base32 3 (.d8 16))), 3),
  ([0xDF, 0x6B, 0x10], .fild (.m64 (.base32 3 (.d8 16))), 3),
  ([0xDF, 0x53, 0x10], .fist (.m16 (.base32 3 (.d8 16))), 3),
  ([0xDF, 0x7B, 0x10], .fistp (.m64 (.base32 3 (.d8 16))), 3),
  ([0xDD, 0x4B, 0x10], .fisttp (.m64 (.base32 3 (.d8 16))), 3),
  ([0xDF, 0x63, 0x10], .fbld (.base32 3 (.d8 16)), 3),
  ([0xDF, 0x73, 0x10], .fbstp (.base32 3 (.d8 16)), 3),
  ([0xD9, 0x63, 0x10], .fldenv (.base32 3 (.d8 16)), 3),
  ([0xD9, 0x6B, 0x10], .fldcw (.base32 3 (.d8 16)), 3),
  ([0xD9, 0x73, 0x10], .fnstenv (.base32 3 (.d8 16)), 3),
  ([0xD9, 0x7B, 0x10], .fnstcw (.base32 3 (.d8 16)), 3),
  ([0xDD, 0x63, 0x10], .frstor (.base32 3 (.d8 16)), 3),
  ([0xDD, 0x73, 0x10], .fnsave (.base32 3 (.d8 16)), 3),
  ([0xDF, 0xE0], .fnstsw .ax, 2),
  ([0xDE, 0xC5], .faddp 5, 2),
  ([0xDE, 0xCD], .fmulp 5, 2),
  ([0xDE, 0xED], .fsubp 5, 2),
  ([0xDE, 0xE5], .fsubrp 5, 2),
  ([0xDE, 0xFD], .fdivp 5, 2),
  ([0xDE, 0xF5], .fdivrp 5, 2),
  ([0xDE, 0xD9], .fcompp, 2)] = true := by decide

theorem test_decode_rows_9 : decodesAll [
  ([0xDA, 0xE9], .fucompp, 2),
  ([0xD9, 0xCD], .fxch 5, 2),
  ([0xDD, 0xC5], .ffree 5, 2),
  ([0xDD, 0xE5], .fucom 5, 2),
  ([0xDD, 0xED], .fucomp 5, 2),
  ([0xDB, 0xED], .fucomi 5, 2),
  ([0xDB, 0xF5], .fcomi 5, 2),
  ([0xDF, 0xED], .fucomip 5, 2),
  ([0xDF, 0xF5], .fcomip 5, 2),
  ([0xDA, 0xC5], .fcmovb 5, 2),
  ([0xDA, 0xCD], .fcmove 5, 2),
  ([0xDA, 0xD5], .fcmovbe 5, 2),
  ([0xDA, 0xDD], .fcmovu 5, 2),
  ([0xDB, 0xC5], .fcmovnb 5, 2),
  ([0xDB, 0xCD], .fcmovne 5, 2),
  ([0xDB, 0xD5], .fcmovnbe 5, 2),
  ([0xDB, 0xDD], .fcmovnu 5, 2),
  ([0xD9, 0xD0], .fnop, 2),
  ([0xD9, 0xE0], .fchs, 2),
  ([0xD9, 0xE1], .fabs, 2),
  ([0xD9, 0xE4], .ftst, 2),
  ([0xD9, 0xE5], .fxam, 2),
  ([0xD9, 0xE8], .fld1, 2),
  ([0xD9, 0xE9], .fldl2t, 2),
  ([0xD9, 0xEA], .fldl2e, 2),
  ([0xD9, 0xEB], .fldpi, 2)] = true := by decide

theorem test_decode_rows_10 : decodesAll [
  ([0xD9, 0xEC], .fldlg2, 2),
  ([0xD9, 0xED], .fldln2, 2),
  ([0xD9, 0xEE], .fldz, 2),
  ([0xD9, 0xF0], .f2xm1, 2),
  ([0xD9, 0xF1], .fyl2x, 2),
  ([0xD9, 0xF2], .fptan, 2),
  ([0xD9, 0xF3], .fpatan, 2),
  ([0xD9, 0xF4], .fxtract, 2),
  ([0xD9, 0xF5], .fprem1, 2),
  ([0xD9, 0xF6], .fdecstp, 2),
  ([0xD9, 0xF7], .fincstp, 2),
  ([0xD9, 0xF8], .fprem, 2),
  ([0xD9, 0xF9], .fyl2xp1, 2),
  ([0xD9, 0xFA], .fsqrt, 2),
  ([0xD9, 0xFB], .fsincos, 2),
  ([0xD9, 0xFC], .frndint, 2),
  ([0xD9, 0xFD], .fscale, 2),
  ([0xD9, 0xFE], .fsin, 2),
  ([0xD9, 0xFF], .fcos, 2),
  ([0xDB, 0xE2], .fnclex, 2),
  ([0xDB, 0xE3], .fninit, 2),
  ([0x9B], .fwait, 1),
  ([0x0F, 0xAE, 0x43, 0x10], .fxsave (.base32 3 (.d8 16)), 4),
  ([0x0F, 0xAE, 0x4B, 0x10], .fxrstor (.base32 3 (.d8 16)), 4),
  ([0x0F, 0x77], .emms, 2),
  ([0x66, 0x0F, 0x7E, 0xCA], .movd (.fromXmm (.reg 2) 1), 4)] = true := by decide

theorem test_decode_rows_11 : decodesAll [
  ([0x0F, 0x6E, 0xCA], .movd (.toMm 1 (.reg 2)), 3),
  ([0xF3, 0x0F, 0x7E, 0xCA], .movq (.toXmm 1 (.reg 2)), 4),
  ([0x0F, 0x7F, 0xCA], .movq (.fromMm (.reg 2) 1), 3),
  ([0x0F, 0x63, 0xCA], .packsswb (.mm 1 (.reg 2)), 3),
  ([0x66, 0x0F, 0x63, 0xCA], .packsswb (.xmm 1 (.reg 2)), 4),
  ([0x0F, 0x6B, 0xCA], .packssdw (.mm 1 (.reg 2)), 3),
  ([0x66, 0x0F, 0x6B, 0xCA], .packssdw (.xmm 1 (.reg 2)), 4),
  ([0x0F, 0x67, 0xCA], .packuswb (.mm 1 (.reg 2)), 3),
  ([0x66, 0x0F, 0x67, 0xCA], .packuswb (.xmm 1 (.reg 2)), 4),
  ([0x0F, 0x68, 0xCA], .punpckhbw (.mm 1 (.reg 2)), 3),
  ([0x66, 0x0F, 0x68, 0xCA], .punpckhbw (.xmm 1 (.reg 2)), 4),
  ([0x0F, 0x69, 0xCA], .punpckhwd (.mm 1 (.reg 2)), 3),
  ([0x66, 0x0F, 0x69, 0xCA], .punpckhwd (.xmm 1 (.reg 2)), 4),
  ([0x0F, 0x6A, 0xCA], .punpckhdq (.mm 1 (.reg 2)), 3),
  ([0x66, 0x0F, 0x6A, 0xCA], .punpckhdq (.xmm 1 (.reg 2)), 4),
  ([0x0F, 0x60, 0xCA], .punpcklbw (.mm 1 (.reg 2)), 3),
  ([0x66, 0x0F, 0x60, 0xCA], .punpcklbw (.xmm 1 (.reg 2)), 4),
  ([0x0F, 0x61, 0xCA], .punpcklwd (.mm 1 (.reg 2)), 3),
  ([0x66, 0x0F, 0x61, 0xCA], .punpcklwd (.xmm 1 (.reg 2)), 4),
  ([0x0F, 0x62, 0xCA], .punpckldq (.mm 1 (.reg 2)), 3),
  ([0x66, 0x0F, 0x62, 0xCA], .punpckldq (.xmm 1 (.reg 2)), 4),
  ([0x0F, 0xFC, 0xCA], .paddb (.mm 1 (.reg 2)), 3),
  ([0x66, 0x0F, 0xFC, 0xCA], .paddb (.xmm 1 (.reg 2)), 4),
  ([0x0F, 0xFD, 0xCA], .paddw (.mm 1 (.reg 2)), 3),
  ([0x66, 0x0F, 0xFD, 0xCA], .paddw (.xmm 1 (.reg 2)), 4),
  ([0x0F, 0xFE, 0xCA], .paddd (.mm 1 (.reg 2)), 3)] = true := by decide

theorem test_decode_rows_12 : decodesAll [
  ([0x66, 0x0F, 0xFE, 0xCA], .paddd (.xmm 1 (.reg 2)), 4),
  ([0x66, 0x0F, 0xD4, 0xCA], .paddq (.xmm 1 (.reg 2)), 4),
  ([0x0F, 0xD4, 0xCA], .paddq (.mm 1 (.reg 2)), 3),
  ([0x0F, 0xEC, 0xCA], .paddsb (.mm 1 (.reg 2)), 3),
  ([0x66, 0x0F, 0xEC, 0xCA], .paddsb (.xmm 1 (.reg 2)), 4),
  ([0x0F, 0xED, 0xCA], .paddsw (.mm 1 (.reg 2)), 3),
  ([0x66, 0x0F, 0xED, 0xCA], .paddsw (.xmm 1 (.reg 2)), 4),
  ([0x0F, 0xDC, 0xCA], .paddusb (.mm 1 (.reg 2)), 3),
  ([0x66, 0x0F, 0xDC, 0xCA], .paddusb (.xmm 1 (.reg 2)), 4),
  ([0x0F, 0xDD, 0xCA], .paddusw (.mm 1 (.reg 2)), 3),
  ([0x66, 0x0F, 0xDD, 0xCA], .paddusw (.xmm 1 (.reg 2)), 4),
  ([0x0F, 0xF8, 0xCA], .psubb (.mm 1 (.reg 2)), 3),
  ([0x66, 0x0F, 0xF8, 0xCA], .psubb (.xmm 1 (.reg 2)), 4),
  ([0x0F, 0xF9, 0xCA], .psubw (.mm 1 (.reg 2)), 3),
  ([0x66, 0x0F, 0xF9, 0xCA], .psubw (.xmm 1 (.reg 2)), 4),
  ([0x0F, 0xFA, 0xCA], .psubd (.mm 1 (.reg 2)), 3),
  ([0x66, 0x0F, 0xFA, 0xCA], .psubd (.xmm 1 (.reg 2)), 4),
  ([0x66, 0x0F, 0xFB, 0xCA], .psubq (.xmm 1 (.reg 2)), 4),
  ([0x0F, 0xFB, 0xCA], .psubq (.mm 1 (.reg 2)), 3),
  ([0x0F, 0xE8, 0xCA], .psubsb (.mm 1 (.reg 2)), 3),
  ([0x66, 0x0F, 0xE8, 0xCA], .psubsb (.xmm 1 (.reg 2)), 4),
  ([0x0F, 0xE9, 0xCA], .psubsw (.mm 1 (.reg 2)), 3),
  ([0x66, 0x0F, 0xE9, 0xCA], .psubsw (.xmm 1 (.reg 2)), 4),
  ([0x0F, 0xD8, 0xCA], .psubusb (.mm 1 (.reg 2)), 3),
  ([0x66, 0x0F, 0xD8, 0xCA], .psubusb (.xmm 1 (.reg 2)), 4),
  ([0x0F, 0xD9, 0xCA], .psubusw (.mm 1 (.reg 2)), 3)] = true := by decide

theorem test_decode_rows_13 : decodesAll [
  ([0x66, 0x0F, 0xD9, 0xCA], .psubusw (.xmm 1 (.reg 2)), 4),
  ([0x0F, 0xF5, 0xCA], .pmaddwd (.mm 1 (.reg 2)), 3),
  ([0x66, 0x0F, 0xF5, 0xCA], .pmaddwd (.xmm 1 (.reg 2)), 4),
  ([0x0F, 0xE4, 0xCA], .pmulhuw (.mm 1 (.reg 2)), 3),
  ([0x66, 0x0F, 0xE4, 0xCA], .pmulhuw (.xmm 1 (.reg 2)), 4),
  ([0x0F, 0xE5, 0xCA], .pmulhw (.mm 1 (.reg 2)), 3),
  ([0x66, 0x0F, 0xE5, 0xCA], .pmulhw (.xmm 1 (.reg 2)), 4),
  ([0x0F, 0xD5, 0xCA], .pmullw (.mm 1 (.reg 2)), 3),
  ([0x66, 0x0F, 0xD5, 0xCA], .pmullw (.xmm 1 (.reg 2)), 4),
  ([0x66, 0x0F, 0xF4, 0xCA], .pmuludq (.xmm 1 (.reg 2)), 4),
  ([0x0F, 0xF4, 0xCA], .pmuludq (.mm 1 (.reg 2)), 3),
  ([0x0F, 0x74, 0xCA], .pcmpeqb (.mm 1 (.reg 2)), 3),
  ([0x66, 0x0F, 0x74, 0xCA], .pcmpeqb (.xmm 1 (.reg 2)), 4),
  ([0x0F, 0x75, 0xCA], .pcmpeqw (.mm 1 (.reg 2)), 3),
  ([0x66, 0x0F, 0x75, 0xCA], .pcmpeqw (.xmm 1 (.reg 2)), 4),
  ([0x0F, 0x76, 0xCA], .pcmpeqd (.mm 1 (.reg 2)), 3),
  ([0x66, 0x0F, 0x76, 0xCA], .pcmpeqd (.xmm 1 (.reg 2)), 4),
  ([0x0F, 0x64, 0xCA], .pcmpgtb (.mm 1 (.reg 2)), 3),
  ([0x66, 0x0F, 0x64, 0xCA], .pcmpgtb (.xmm 1 (.reg 2)), 4),
  ([0x0F, 0x65, 0xCA], .pcmpgtw (.mm 1 (.reg 2)), 3),
  ([0x66, 0x0F, 0x65, 0xCA], .pcmpgtw (.xmm 1 (.reg 2)), 4),
  ([0x0F, 0x66, 0xCA], .pcmpgtd (.mm 1 (.reg 2)), 3),
  ([0x66, 0x0F, 0x66, 0xCA], .pcmpgtd (.xmm 1 (.reg 2)), 4),
  ([0x0F, 0xDB, 0xCA], .pand (.mm 1 (.reg 2)), 3),
  ([0x66, 0x0F, 0xDB, 0xCA], .pand (.xmm 1 (.reg 2)), 4),
  ([0x0F, 0xDF, 0xCA], .pandn (.mm 1 (.reg 2)), 3)] = true := by decide

theorem test_decode_rows_14 : decodesAll [
  ([0x66, 0x0F, 0xDF, 0xCA], .pandn (.xmm 1 (.reg 2)), 4),
  ([0x0F, 0xEB, 0xCA], .por (.mm 1 (.reg 2)), 3),
  ([0x66, 0x0F, 0xEB, 0xCA], .por (.xmm 1 (.reg 2)), 4),
  ([0x0F, 0xEF, 0xCA], .pxor (.mm 1 (.reg 2)), 3),
  ([0x66, 0x0F, 0xEF, 0xCA], .pxor (.xmm 1 (.reg 2)), 4),
  ([0x0F, 0xE0, 0xCA], .pavgb (.mm 1 (.reg 2)), 3),
  ([0x66, 0x0F, 0xE0, 0xCA], .pavgb (.xmm 1 (.reg 2)), 4),
  ([0x0F, 0xE3, 0xCA], .pavgw (.mm 1 (.reg 2)), 3),
  ([0x66, 0x0F, 0xE3, 0xCA], .pavgw (.xmm 1 (.reg 2)), 4),
  ([0x0F, 0xEE, 0xCA], .pmaxsw (.mm 1 (.reg 2)), 3),
  ([0x66, 0x0F, 0xEE, 0xCA], .pmaxsw (.xmm 1 (.reg 2)), 4),
  ([0x0F, 0xDE, 0xCA], .pmaxub (.mm 1 (.reg 2)), 3),
  ([0x66, 0x0F, 0xDE, 0xCA], .pmaxub (.xmm 1 (.reg 2)), 4),
  ([0x0F, 0xEA, 0xCA], .pminsw (.mm 1 (.reg 2)), 3),
  ([0x66, 0x0F, 0xEA, 0xCA], .pminsw (.xmm 1 (.reg 2)), 4),
  ([0x0F, 0xDA, 0xCA], .pminub (.mm 1 (.reg 2)), 3),
  ([0x66, 0x0F, 0xDA, 0xCA], .pminub (.xmm 1 (.reg 2)), 4),
  ([0x0F, 0xF6, 0xCA], .psadbw (.mm 1 (.reg 2)), 3),
  ([0x66, 0x0F, 0xF6, 0xCA], .psadbw (.xmm 1 (.reg 2)), 4),
  ([0x0F, 0x71, 0xF2, 0x07], .psllw (.immMm 2 7), 4),
  ([0x66, 0x0F, 0xF1, 0xCA], .psllw (.by (.xmm 1 (.reg 2))), 4),
  ([0x0F, 0x72, 0xF2, 0x07], .pslld (.immMm 2 7), 4),
  ([0x66, 0x0F, 0xF2, 0xCA], .pslld (.by (.xmm 1 (.reg 2))), 4),
  ([0x0F, 0x73, 0xF2, 0x07], .psllq (.immMm 2 7), 4),
  ([0x66, 0x0F, 0xF3, 0xCA], .psllq (.by (.xmm 1 (.reg 2))), 4),
  ([0x0F, 0x71, 0xE2, 0x07], .psraw (.immMm 2 7), 4)] = true := by decide

theorem test_decode_rows_15 : decodesAll [
  ([0x66, 0x0F, 0xE1, 0xCA], .psraw (.by (.xmm 1 (.reg 2))), 4),
  ([0x0F, 0x72, 0xE2, 0x07], .psrad (.immMm 2 7), 4),
  ([0x66, 0x0F, 0xE2, 0xCA], .psrad (.by (.xmm 1 (.reg 2))), 4),
  ([0x0F, 0x71, 0xD2, 0x07], .psrlw (.immMm 2 7), 4),
  ([0x66, 0x0F, 0xD1, 0xCA], .psrlw (.by (.xmm 1 (.reg 2))), 4),
  ([0x0F, 0x72, 0xD2, 0x07], .psrld (.immMm 2 7), 4),
  ([0x66, 0x0F, 0xD2, 0xCA], .psrld (.by (.xmm 1 (.reg 2))), 4),
  ([0x0F, 0x73, 0xD2, 0x07], .psrlq (.immMm 2 7), 4),
  ([0x66, 0x0F, 0xD3, 0xCA], .psrlq (.by (.xmm 1 (.reg 2))), 4),
  ([0x66, 0x0F, 0x73, 0xFA, 0x07], .pslldq 2 7, 5),
  ([0x66, 0x0F, 0x73, 0xDA, 0x07], .psrldq 2 7, 5),
  ([0x66, 0x0F, 0x6D, 0xCA], .punpckhqdq 1 (.reg 2), 4),
  ([0x66, 0x0F, 0x6C, 0xCA], .punpcklqdq 1 (.reg 2), 4),
  ([0x0F, 0xC5, 0xCA, 0x07], .pextrw (.mm 1 2) 7, 4),
  ([0x0F, 0xC4, 0xCA, 0x07], .pinsrw (.mm 1 (.reg 2)) 7, 4),
  ([0x0F, 0xD7, 0xCA], .pmovmskb (.mm 1 2), 3),
  ([0x0F, 0x70, 0xCA, 0x07], .pshufw 1 (.reg 2) 7, 4),
  ([0x66, 0x0F, 0x70, 0xCA, 0x07], .pshufd 1 (.reg 2) 7, 5),
  ([0xF3, 0x0F, 0x70, 0xCA, 0x07], .pshufhw 1 (.reg 2) 7, 5),
  ([0xF2, 0x0F, 0x70, 0xCA, 0x07], .pshuflw 1 (.reg 2) 7, 5),
  ([0x0F, 0xF7, 0xCA], .maskmovq 1 2, 3),
  ([0x66, 0x0F, 0xF7, 0xCA], .maskmovdqu 1 2, 4),
  ([0x0F, 0xE7, 0x4B, 0x10], .movntq (.base32 3 (.d8 16)) 1, 4),
  ([0x66, 0x0F, 0xE7, 0x4B, 0x10], .movntdq (.base32 3 (.d8 16)) 1, 5),
  ([0x0F, 0x2B, 0x4B, 0x10], .movntps (.base32 3 (.d8 16)) 1, 4),
  ([0x66, 0x0F, 0x2B, 0x4B, 0x10], .movntpd (.base32 3 (.d8 16)) 1, 5)] = true := by decide

theorem test_decode_rows_16 : decodesAll [
  ([0x0F, 0xC3, 0x4B, 0x10], .movnti (.base32 3 (.d8 16)) 1, 4),
  ([0x0F, 0x18, 0x43, 0x10], .prefetchnta (.base32 3 (.d8 16)), 4),
  ([0x0F, 0x18, 0x4B, 0x10], .prefetcht0 (.base32 3 (.d8 16)), 4),
  ([0x0F, 0x18, 0x53, 0x10], .prefetcht1 (.base32 3 (.d8 16)), 4),
  ([0x0F, 0x18, 0x5B, 0x10], .prefetcht2 (.base32 3 (.d8 16)), 4),
  ([0x0F, 0xAE, 0x7B, 0x10], .clflush (.base32 3 (.d8 16)), 4),
  ([0x0F, 0xAE, 0xF8], .sfence, 3),
  ([0x0F, 0xAE, 0xE8], .lfence, 3),
  ([0x0F, 0xAE, 0xF0], .mfence, 3),
  ([0xF3, 0x90], .pause, 2),
  ([0x66, 0x0F, 0x6F, 0xCA], .movdqa (.load 1 (.reg 2)), 4),
  ([0x66, 0x0F, 0x7F, 0x4B, 0x10], .movdqa (.store (.mem (.base32 3 (.d8 16))) 1), 5),
  ([0xF3, 0x0F, 0x6F, 0xCA], .movdqu (.load 1 (.reg 2)), 4),
  ([0xF3, 0x0F, 0x7F, 0x4B, 0x10], .movdqu (.store (.mem (.base32 3 (.d8 16))) 1), 5),
  ([0xF3, 0x0F, 0xD6, 0xCA], .movq2dq 1 2, 4),
  ([0xF2, 0x0F, 0xD6, 0xCA], .movdq2q 1 2, 4),
  ([0x0F, 0x28, 0xCA], .movaps (.load 1 (.reg 2)), 3),
  ([0x0F, 0x29, 0x4B, 0x10], .movaps (.store (.mem (.base32 3 (.d8 16))) 1), 4),
  ([0x0F, 0x10, 0xCA], .movups (.load 1 (.reg 2)), 3),
  ([0x0F, 0x11, 0x4B, 0x10], .movups (.store (.mem (.base32 3 (.d8 16))) 1), 4),
  ([0x66, 0x0F, 0x28, 0xCA], .movapd (.load 1 (.reg 2)), 4),
  ([0x66, 0x0F, 0x29, 0x4B, 0x10], .movapd (.store (.mem (.base32 3 (.d8 16))) 1), 5),
  ([0x66, 0x0F, 0x10, 0xCA], .movupd (.load 1 (.reg 2)), 4),
  ([0x66, 0x0F, 0x11, 0x4B, 0x10], .movupd (.store (.mem (.base32 3 (.d8 16))) 1), 5),
  ([0xF3, 0x0F, 0x10, 0xCA], .movss (.load 1 (.reg 2)), 4),
  ([0xF3, 0x0F, 0x11, 0x4B, 0x10], .movss (.store (.mem (.base32 3 (.d8 16))) 1), 5)] = true := by decide

theorem test_decode_rows_17 : decodesAll [
  ([0xF2, 0x0F, 0x10, 0xCA], .movsd (.load 1 (.reg 2)), 4),
  ([0xF2, 0x0F, 0x11, 0x4B, 0x10], .movsd (.store (.mem (.base32 3 (.d8 16))) 1), 5),
  ([0x0F, 0x13, 0x4B, 0x10], .movlps (.store (.base32 3 (.d8 16)) 1), 4),
  ([0x0F, 0x17, 0x4B, 0x10], .movhps (.store (.base32 3 (.d8 16)) 1), 4),
  ([0x66, 0x0F, 0x13, 0x4B, 0x10], .movlpd (.store (.base32 3 (.d8 16)) 1), 5),
  ([0x66, 0x0F, 0x17, 0x4B, 0x10], .movhpd (.store (.base32 3 (.d8 16)) 1), 5),
  ([0x0F, 0x12, 0xCA], .movhlps 1 2, 3),
  ([0x0F, 0x16, 0xCA], .movlhps 1 2, 3),
  ([0x0F, 0x50, 0xCA], .movmskps 1 2, 3),
  ([0x66, 0x0F, 0x50, 0xCA], .movmskpd 1 2, 4),
  ([0x0F, 0x58, 0xCA], .addps 1 (.reg 2), 3),
  ([0x66, 0x0F, 0x58, 0xCA], .addpd 1 (.reg 2), 4),
  ([0xF3, 0x0F, 0x58, 0xCA], .addss 1 (.reg 2), 4),
  ([0xF2, 0x0F, 0x58, 0xCA], .addsd 1 (.reg 2), 4),
  ([0x0F, 0x5C, 0xCA], .subps 1 (.reg 2), 3),
  ([0x66, 0x0F, 0x5C, 0xCA], .subpd 1 (.reg 2), 4),
  ([0xF3, 0x0F, 0x5C, 0xCA], .subss 1 (.reg 2), 4),
  ([0xF2, 0x0F, 0x5C, 0xCA], .subsd 1 (.reg 2), 4),
  ([0x0F, 0x59, 0xCA], .mulps 1 (.reg 2), 3),
  ([0x66, 0x0F, 0x59, 0xCA], .mulpd 1 (.reg 2), 4),
  ([0xF3, 0x0F, 0x59, 0xCA], .mulss 1 (.reg 2), 4),
  ([0xF2, 0x0F, 0x59, 0xCA], .mulsd 1 (.reg 2), 4),
  ([0x0F, 0x5E, 0xCA], .divps 1 (.reg 2), 3),
  ([0x66, 0x0F, 0x5E, 0xCA], .divpd 1 (.reg 2), 4),
  ([0xF3, 0x0F, 0x5E, 0xCA], .divss 1 (.reg 2), 4),
  ([0xF2, 0x0F, 0x5E, 0xCA], .divsd 1 (.reg 2), 4)] = true := by decide

theorem test_decode_rows_18 : decodesAll [
  ([0x0F, 0x51, 0xCA], .sqrtps 1 (.reg 2), 3),
  ([0x66, 0x0F, 0x51, 0xCA], .sqrtpd 1 (.reg 2), 4),
  ([0xF3, 0x0F, 0x51, 0xCA], .sqrtss 1 (.reg 2), 4),
  ([0xF2, 0x0F, 0x51, 0xCA], .sqrtsd 1 (.reg 2), 4),
  ([0x0F, 0x5F, 0xCA], .maxps 1 (.reg 2), 3),
  ([0x66, 0x0F, 0x5F, 0xCA], .maxpd 1 (.reg 2), 4),
  ([0xF3, 0x0F, 0x5F, 0xCA], .maxss 1 (.reg 2), 4),
  ([0xF2, 0x0F, 0x5F, 0xCA], .maxsd 1 (.reg 2), 4),
  ([0x0F, 0x5D, 0xCA], .minps 1 (.reg 2), 3),
  ([0x66, 0x0F, 0x5D, 0xCA], .minpd 1 (.reg 2), 4),
  ([0xF3, 0x0F, 0x5D, 0xCA], .minss 1 (.reg 2), 4),
  ([0xF2, 0x0F, 0x5D, 0xCA], .minsd 1 (.reg 2), 4),
  ([0x0F, 0x53, 0xCA], .rcpps 1 (.reg 2), 3),
  ([0xF3, 0x0F, 0x53, 0xCA], .rcpss 1 (.reg 2), 4),
  ([0x0F, 0x52, 0xCA], .rsqrtps 1 (.reg 2), 3),
  ([0xF3, 0x0F, 0x52, 0xCA], .rsqrtss 1 (.reg 2), 4),
  ([0x0F, 0x54, 0xCA], .andps 1 (.reg 2), 3),
  ([0x66, 0x0F, 0x54, 0xCA], .andpd 1 (.reg 2), 4),
  ([0x0F, 0x55, 0xCA], .andnps 1 (.reg 2), 3),
  ([0x66, 0x0F, 0x55, 0xCA], .andnpd 1 (.reg 2), 4),
  ([0x0F, 0x56, 0xCA], .orps 1 (.reg 2), 3),
  ([0x66, 0x0F, 0x56, 0xCA], .orpd 1 (.reg 2), 4),
  ([0x0F, 0x57, 0xCA], .xorps 1 (.reg 2), 3),
  ([0x66, 0x0F, 0x57, 0xCA], .xorpd 1 (.reg 2), 4),
  ([0x0F, 0x15, 0xCA], .unpckhps 1 (.reg 2), 3),
  ([0x66, 0x0F, 0x15, 0xCA], .unpckhpd 1 (.reg 2), 4)] = true := by decide

theorem test_decode_rows_19 : decodesAll [
  ([0x0F, 0x14, 0xCA], .unpcklps 1 (.reg 2), 3),
  ([0x66, 0x0F, 0x14, 0xCA], .unpcklpd 1 (.reg 2), 4),
  ([0x0F, 0x2F, 0xCA], .comiss 1 (.reg 2), 3),
  ([0x66, 0x0F, 0x2F, 0xCA], .comisd 1 (.reg 2), 4),
  ([0x0F, 0x2E, 0xCA], .ucomiss 1 (.reg 2), 3),
  ([0x66, 0x0F, 0x2E, 0xCA], .ucomisd 1 (.reg 2), 4),
  ([0x0F, 0xC2, 0xCA, 0x07], .cmpps 1 (.reg 2) 7, 4),
  ([0x66, 0x0F, 0xC2, 0xCA, 0x07], .cmppd 1 (.reg 2) 7, 5),
  ([0xF3, 0x0F, 0xC2, 0xCA, 0x07], .cmpss 1 (.reg 2) 7, 5),
  ([0xF2, 0x0F, 0xC2, 0xCA, 0x07], .cmpsd 1 (.reg 2) 7, 5),
  ([0x0F, 0xC6, 0xCA, 0x07], .shufps 1 (.reg 2) 7, 4),
  ([0x66, 0x0F, 0xC6, 0xCA, 0x07], .shufpd 1 (.reg 2) 7, 5),
  ([0x0F, 0x2A, 0xCA], .cvtpi2ps 1 (.reg 2), 3),
  ([0x0F, 0x2D, 0xCA], .cvtps2pi 1 (.reg 2), 3),
  ([0x0F, 0x2C, 0xCA], .cvttps2pi 1 (.reg 2), 3),
  ([0xF3, 0x0F, 0x2A, 0xCA], .cvtsi2ss 1 (.reg 2), 4),
  ([0xF3, 0x0F, 0x2D, 0xCA], .cvtss2si 1 (.reg 2), 4),
  ([0xF3, 0x0F, 0x2C, 0xCA], .cvttss2si 1 (.reg 2), 4),
  ([0x66, 0x0F, 0x2A, 0xCA], .cvtpi2pd 1 (.reg 2), 4),
  ([0x66, 0x0F, 0x2D, 0xCA], .cvtpd2pi 1 (.reg 2), 4),
  ([0x66, 0x0F, 0x2C, 0xCA], .cvttpd2pi 1 (.reg 2), 4),
  ([0xF2, 0x0F, 0x2A, 0xCA], .cvtsi2sd 1 (.reg 2), 4),
  ([0xF2, 0x0F, 0x2D, 0xCA], .cvtsd2si 1 (.reg 2), 4),
  ([0xF2, 0x0F, 0x2C, 0xCA], .cvttsd2si 1 (.reg 2), 4),
  ([0x66, 0x0F, 0x5A, 0xCA], .cvtpd2ps 1 (.reg 2), 4),
  ([0x0F, 0x5A, 0xCA], .cvtps2pd 1 (.reg 2), 3)] = true := by decide

theorem test_decode_rows_20 : decodesAll [
  ([0xF2, 0x0F, 0x5A, 0xCA], .cvtsd2ss 1 (.reg 2), 4),
  ([0xF3, 0x0F, 0x5A, 0xCA], .cvtss2sd 1 (.reg 2), 4),
  ([0xF2, 0x0F, 0xE6, 0xCA], .cvtpd2dq 1 (.reg 2), 4),
  ([0x66, 0x0F, 0xE6, 0xCA], .cvttpd2dq 1 (.reg 2), 4),
  ([0xF3, 0x0F, 0xE6, 0xCA], .cvtdq2pd 1 (.reg 2), 4),
  ([0x66, 0x0F, 0x5B, 0xCA], .cvtps2dq 1 (.reg 2), 4),
  ([0xF3, 0x0F, 0x5B, 0xCA], .cvttps2dq 1 (.reg 2), 4),
  ([0x0F, 0x5B, 0xCA], .cvtdq2ps 1 (.reg 2), 3),
  ([0x0F, 0xAE, 0x53, 0x10], .ldmxcsr (.base32 3 (.d8 16)), 4),
  ([0x0F, 0xAE, 0x5B, 0x10], .stmxcsr (.base32 3 (.d8 16)), 4),
  ([0x66, 0x0F, 0xD0, 0xCA], .addsubpd 1 (.reg 2), 4),
  ([0xF2, 0x0F, 0xD0, 0xCA], .addsubps 1 (.reg 2), 4),
  ([0x66, 0x0F, 0x7C, 0xCA], .haddpd 1 (.reg 2), 4),
  ([0xF2, 0x0F, 0x7C, 0xCA], .haddps 1 (.reg 2), 4),
  ([0x66, 0x0F, 0x7D, 0xCA], .hsubpd 1 (.reg 2), 4),
  ([0xF2, 0x0F, 0x7D, 0xCA], .hsubps 1 (.reg 2), 4),
  ([0xF2, 0x0F, 0x12, 0xCA], .movddup 1 (.reg 2), 4),
  ([0xF3, 0x0F, 0x16, 0xCA], .movshdup 1 (.reg 2), 4),
  ([0xF3, 0x0F, 0x12, 0xCA], .movsldup 1 (.reg 2), 4),
  ([0xF2, 0x0F, 0xF0, 0x4B, 0x10], .lddqu 1 (.base32 3 (.d8 16)), 5)] = true := by decide
/-! ## One step on the spec's examples -/

/-- A flat segment of 4 GBytes. -/
def flatSeg (sel : Word16) (typ : BitVec 4) : SegReg :=
  { sel, base := 0, limit := 0xFFFFFFFF, typ, s := true, dpl := 0, p := true, db := true, g := true }

/-- "FLAT32" of 95_test_vectors, at EIP = 200H. -/
def flat : State :=
  { State.reset with
    cr0 := 0x33, cr4 := 0x600, eip := 0x200, cs := flatSeg 8 11, ss := flatSeg 16 3, ds := flatSeg 16 3, es := flatSeg 16 3
    fs := flatSeg 16 3, gs := flatSeg 16 3, gpr := { State.reset.gpr with r2 := 0 }
    fpu := { Fpu.reset with cw := 0x037F, tw := 0xFFFF } }

/-- Bytes at an address. -/
def bytesAt (a : Nat) (bs : List Byte) (s : State) : State :=
  { s with mem := (bs.zipIdx).foldl (fun m b => Memory.write m (a + b.2) b.1) s.mem }
/-- Registers by number. -/
def regs (l : List (RegNum × Word32)) (s : State) : State := l.foldl (fun s p => s.setReg32 p.1 p.2) s
/-- Flags set. -/
def flags (l : List Nat) (s : State) : State := l.foldl (fun s k => s.setFlag k true) s
/-- The bytes at an address are these. -/
def hasBytes (a : Nat) (bs : List Byte) (t : State) : Bool := bs.zipIdx.all fun b => Memory.read t.mem (a + b.2) == b.1
def hasRegs (l : List (RegNum × Word32)) (t : State) : Bool := l.all fun p => t.reg32 p.1 == p.2
def hasFlags (l : List (Nat × Bool)) (t : State) : Bool := l.all fun p => t.flag p.1 == p.2

/-- One step on the bytes at CS:EIP reaches a next state that passes the check. -/
def steps (s : State) (bs : List Byte) (check : State → Bool) : Bool :=
  match step (bytesAt (s.cs.base + s.eip).toNat bs s) with
  | .next t => check t
  | _ => false

/-- One row: bytes, start registers, flags set at the start, registers and flags expected. -/
structure Row where
  bytes : List Byte
  start : List (RegNum × Word32) := []
  set : List Nat := []
  gives : List (RegNum × Word32) := []
  flags : List (Nat × Bool) := []

/-- All rows hold, each moving EIP past its bytes. -/
def rows (l : List Row) : Bool :=
  l.all fun r => steps (regs r.start (Tests.flags r.set flat)) r.bytes fun t =>
    hasRegs r.gives t && hasFlags r.flags t && t.eip == 0x200 + BitVec.ofNat 32 r.bytes.length

/-- The examples of 40 R460 to R474, A50 to A57. -/
theorem test_step_add_to_test : rows [
  { bytes := [0x01, 0xD8], start := [(0, 0xFFFFFFFF), (3, 1)], gives := [(0, 0), (3, 1)],
    flags := [(fCF, true), (fZF, true), (fOF, false), (fAF, true), (fPF, true), (fSF, false)] },
  { bytes := [0x00, 0xD8], start := [(0, 0xAABBCC7F), (3, 1)], gives := [(0, 0xAABBCC80)],
    flags := [(fOF, true), (fSF, true), (fAF, true), (fCF, false), (fZF, false), (fPF, false)] },
  { bytes := [0x0C, 0x80], start := [(0, 1)], gives := [(0, 0x81)] },
  { bytes := [0x11, 0xD8], start := [(0, 1), (3, 2)], set := [fCF], gives := [(0, 4)], flags := [(fCF, false)] },
  { bytes := [0x83, 0xD0, 0x00], start := [(0, 0xFFFFFFFF)], set := [fCF], gives := [(0, 0)],
    flags := [(fCF, true), (fZF, true), (fAF, true), (fPF, true), (fSF, false), (fOF, false)] },
  { bytes := [0x19, 0xD8], set := [fCF], gives := [(0, 0xFFFFFFFF)], flags := [(fCF, true), (fSF, true), (fAF, true)] },
  { bytes := [0x19, 0xD8], start := [(3, 0xFFFFFFFF)], set := [fCF], gives := [(0, 0)],
    flags := [(fCF, true), (fZF, true), (fAF, true), (fPF, true), (fOF, false)] },
  { bytes := [0x25, 0x0F, 0, 0, 0], start := [(0, 0x12345678)], gives := [(0, 8)] },
  { bytes := [0x29, 0xD8], start := [(0, 0x80000000), (3, 1)], gives := [(0, 0x7FFFFFFF)],
    flags := [(fOF, true), (fCF, false), (fSF, false), (fAF, true), (fPF, true)] },
  { bytes := [0x2C, 0x01], gives := [(0, 0xFF)], flags := [(fCF, true), (fSF, true), (fAF, true), (fPF, true), (fOF, false), (fZF, false)] },
  { bytes := [0x31, 0xC0], start := [(0, 7)], gives := [(0, 0)] },
  { bytes := [0x39, 0xD8], start := [(0, 1), (3, 2)], gives := [(0, 1), (3, 2)],
    flags := [(fCF, true), (fSF, true), (fAF, true), (fPF, true), (fZF, false), (fOF, false)] },
  { bytes := [0x40], start := [(0, 0x7FFFFFFF)], set := [fCF], gives := [(0, 0x80000000)],
    flags := [(fOF, true), (fSF, true), (fAF, true), (fCF, true)] },
  { bytes := [0x66, 0x40], start := [(0, 0x1234FFFF)], gives := [(0, 0x12340000)], flags := [(fZF, true), (fAF, true), (fPF, true), (fOF, false)] },
  { bytes := [0x48], gives := [(0, 0xFFFFFFFF)], flags := [(fSF, true), (fAF, true), (fOF, false), (fCF, false)] },
  { bytes := [0xF7, 0xD8], start := [(0, 0x80000000)], gives := [(0, 0x80000000)],
    flags := [(fCF, true), (fOF, true), (fSF, true), (fPF, true), (fAF, false)] },
  { bytes := [0xF7, 0xD8], gives := [(0, 0)], flags := [(fCF, false), (fZF, true)] },
  { bytes := [0xF6, 0xD0], start := [(0, 0x0F)], gives := [(0, 0xF0)] },
  { bytes := [0x85, 0xC0], gives := [(0, 0)] }] = true := by decide +kernel

/-- The examples of 40 R480 to R517, A58 to A62. -/
theorem test_step_multiply_shift_bits : rows [
  { bytes := [0xF7, 0xE3], start := [(0, 0x80000000), (3, 4)], gives := [(2, 2), (0, 0)] },
  { bytes := [0xF6, 0xE3], start := [(0, 0x10), (3, 0x10)], gives := [(0, 0x100)] },
  { bytes := [0xF6, 0xEB], start := [(0, 0xFF), (3, 2)], gives := [(0, 0xFFFE)] },
  { bytes := [0x0F, 0xAF, 0xC3], start := [(0, 0x10000), (3, 0x10000)], gives := [(0, 0)] },
  { bytes := [0x6B, 0xC3, 0xFF], start := [(3, 5)], gives := [(0, 0xFFFFFFFB)] },
  { bytes := [0xF7, 0xF3], start := [(0, 7), (3, 2)], gives := [(0, 3), (2, 1)] },
  { bytes := [0xF7, 0xFB], start := [(2, 0xFFFFFFFF), (0, 0xFFFFFFF9), (3, 2)], gives := [(0, 0xFFFFFFFD), (2, 0xFFFFFFFF)] },
  { bytes := [0xD1, 0xC0], start := [(0, 0x80000001)], gives := [(0, 3)], flags := [(fCF, true), (fOF, true)] },
  { bytes := [0xC1, 0xC8, 4], start := [(0, 0xF)], gives := [(0, 0xF0000000)] },
  { bytes := [0xD0, 0xD0], start := [(0, 0x80)], gives := [(0, 0)], flags := [(fCF, true), (fOF, true)] },
  { bytes := [0xD0, 0xD8], start := [(0, 1)], set := [fCF], gives := [(0, 0x80)], flags := [(fCF, true), (fOF, true)] },
  { bytes := [0xC1, 0xE0, 4], start := [(0, 0x10000001)], gives := [(0, 0x10)] },
  { bytes := [0xC1, 0xE0, 0x20], start := [(0, 0x12345678)], set := [fCF, fOF], gives := [(0, 0x12345678)], flags := [(fCF, true), (fOF, true)] },
  { bytes := [0xD1, 0xE0], start := [(0, 0x40000000)], gives := [(0, 0x80000000)] },
  { bytes := [0xD1, 0xE8], start := [(0, 0x80000001)], gives := [(0, 0x40000000)] },
  { bytes := [0xC1, 0xF8, 0x1F], start := [(0, 0x80000000)], gives := [(0, 0xFFFFFFFF)] },
  { bytes := [0x0F, 0xA4, 0xD8, 4], start := [(0, 0x12345678), (3, 0xABCDEF01)], gives := [(0, 0x2345678A)] },
  { bytes := [0x0F, 0xAC, 0xD8, 4], start := [(0, 0x12345678), (3, 0xABCDEF01)], gives := [(0, 0x11234567)] },
  { bytes := [0x0F, 0xAB, 0xD8], start := [(3, 33)], gives := [(0, 2)] },
  { bytes := [0x0F, 0xBA, 0xF0, 0], start := [(0, 3)], gives := [(0, 2)] },
  { bytes := [0x0F, 0xBA, 0xF8, 4], gives := [(0, 0x10)] },
  { bytes := [0x0F, 0xBC, 0xC3], start := [(3, 8)], gives := [(0, 3)] },
  { bytes := [0x0F, 0xBD, 0xC3], start := [(3, 9)], gives := [(0, 3)] },
  { bytes := [0x0F, 0xC8], start := [(0, 0x12345678)], gives := [(0, 0x78563412)] },
  { bytes := [0x0F, 0x94, 0xC0], start := [(0, 0xAABBCCDD)], gives := [(0, 0xAABBCC00)] },
  { bytes := [0x0F, 0xC1, 0xD8], start := [(0, 1), (3, 2)], gives := [(0, 3), (3, 1)] }] = true := by decide +kernel

/-- The examples of 40 R540 to R565; M41, M53 to M55; T20, T21, T25, T29. -/
theorem test_step_adjust_move : rows [
  { bytes := [0x9F], set := [fSF, fPF, fCF], gives := [(0, 0x8700)] },
  { bytes := [0x9E], start := [(0, 0xD500)], flags := [(fSF, true), (fZF, true), (fAF, true), (fPF, true), (fCF, true)] },
  { bytes := [0xD4, 0x0A], start := [(0, 0x35)], gives := [(0, 0x0503)] },
  { bytes := [0xD5, 0x0A], start := [(0, 0x0503)], gives := [(0, 0x35)] },
  { bytes := [0x37], start := [(0, 0xF)], gives := [(0, 0x105)] },
  { bytes := [0x3F], start := [(0, 0x2FF)], gives := [(0, 0x109)] },
  { bytes := [0x27], start := [(0, 0x9B)], gives := [(0, 1)] },
  { bytes := [0x2F], start := [(0, 0x0F)], set := [fAF], gives := [(0, 9)] },
  { bytes := [0xB4, 0x34], start := [(0, 0xFFFFFF12)], gives := [(0, 0xFFFF3412)] },
  { bytes := [0x0F, 0x44, 0xC3], start := [(0, 1), (3, 2)], set := [fZF], gives := [(0, 2)] },
  { bytes := [0x66, 0x98], start := [(0, 0x12340080)], gives := [(0, 0x1234FF80)] },
  { bytes := [0x8D, 0x04, 0x58], start := [(0, 0x10), (3, 2)], gives := [(0, 0x14)] },
  { bytes := [0xE1, 0x10], start := [(1, 2)], gives := [(1, 1)] },
  { bytes := [0xCE] }] = true := by decide +kernel

/-- M40, M42 to M45, A69, 40 R532's example, T22, T24, T27, Y30, P2's RET. -/
theorem test_step_memory_stack_branch :
    steps (regs [(0, 0x11223344), (3, 0x1000)] flat) [0x89, 0x03] (hasBytes 0x1000 [0x44, 0x33, 0x22, 0x11]) = true ∧
    steps (regs [(4, 0x1000)] flat) [0x54] (fun t => hasBytes 0xFFC [0, 0x10, 0, 0] t && hasRegs [(4, 0xFFC)] t) = true ∧
    steps (regs [(4, 0xFFC)] (bytesAt 0xFFC [0x34, 0x12] flat)) [0x5C] (hasRegs [(4, 0x1234)]) = true ∧
    steps (regs [(4, 0x1000)] flat) [0x66, 0x6A, 0xFF] (fun t => hasBytes 0xFFE [0xFF, 0xFF, 0] t && hasRegs [(4, 0xFFE)] t) = true ∧
    steps (regs [(4, 0x1000)] flat) [0x6A, 0x80] (fun t => hasBytes 0xFFC [0x80, 0xFF, 0xFF, 0xFF] t && hasRegs [(4, 0xFFC)] t) = true ∧
    steps (regs [(3, 0x1000), (0, 4), (1, 9)] (bytesAt 0x1000 [5] flat)) [0x0F, 0xB1, 0x0B]
      (fun t => hasBytes 0x1000 [5, 0, 0, 0] t && hasRegs [(0, 5)] t && hasFlags [(fZF, false), (fCF, true)] t) = true ∧
    steps (regs [(0, 1), (3, 2), (6, 0x1000)] (bytesAt 0x1000 [1] flat)) [0x0F, 0xC7, 0x0E]
      (fun t => hasBytes 0x1000 [2, 0, 0, 0, 0, 0, 0, 0] t && hasFlags [(fZF, true)] t) = true ∧
    steps (flags [fZF] flat) [0x0F, 0x84, 0, 1, 0, 0] (·.eip == 0x306) = true ∧
    steps flat [0xE2, 0xFE] (fun t => t.eip == 0x200 && hasRegs [(1, 0xFFFFFFFF)] t) = true ∧
    steps (regs [(4, 0x2000), (0, 0x3000)] flat) [0xFF, 0xD0]
      (fun t => hasBytes 0x1FFC [2, 2, 0, 0] t && hasRegs [(4, 0x1FFC)] t && t.eip == 0x3000) = true ∧
    steps (regs [(4, 0x1FF8)] (bytesAt 0x1FF8 [0x0C, 0x10] flat)) [0xC3] (fun t => hasRegs [(4, 0x1FFC)] t && t.eip == 0x100C) = true ∧
    steps (regs [(0, 0x1000)] (bytesAt 0x1000 [0xFF, 7, 0, 0x30, 0, 0] flat)) [0x0F, 0x01, 0x18]
      (·.idtr == { limit := 0x7FF, base := 0x3000 }) = true := by decide +kernel

/-- M46 to M48, one iteration a step, and M51. -/
theorem test_step_strings :
    steps (regs [(6, 0x100), (7, 0x300)] flat) [0xF3, 0xA4] (fun t => hasRegs [(1, 0), (6, 0x100), (7, 0x300)] t && t.eip == 0x202) = true ∧
    steps (regs [(1, 4), (6, 0x103), (7, 0x303)] (flags [fDF] (bytesAt 0x103 [0x5A] flat))) [0xF3, 0xA4]
      (fun t => hasBytes 0x303 [0x5A] t && hasRegs [(1, 3), (6, 0x102), (7, 0x302)] t && t.eip == 0x200) = true ∧
    steps (regs [(1, 3), (7, 0x302)] flat) [0xF2, 0xAE]
      (fun t => hasRegs [(1, 2), (7, 0x303)] t && hasFlags [(fZF, true)] t && t.eip == 0x202) = true ∧
    steps (regs [(0, 0x5A)] flat) [0xE6, 0x80] (·.ioOut == [{ port := 0x80, bytes := 1, value := 0x5A }]) = true := by decide +kernel

/-- A value on the x87 stack below the others. -/
def push80 (v : Word80) (s : State) : State := { s with fpu := s.fpu.push v }

/-- X20, X21, X23 to X26, X28, X30 to X32, X36 to X39, H21; of the operations only the shared arithmetic, since the codes
they leave open cannot be evaluated. -/
theorem test_step_x87 :
    let one : Word80 := 0x3FFF8000000000000000
    let two : Word80 := 0x40008000000000000000
    let qnan : Word80 := 0x7FFFC000000000000000
    let on (l : List Word80) : State := regs [(0, 0x1000), (3, 0x1000)] (l.foldr push80 flat)
    let res (f : Fpu) (flags : Word16) (v : Word80) : Bool := f.sw &&& 0x7F == flags && f.st 0 == v
    steps (on []) [0xD9, 0xE8] (fun t => t.fpu.top == 7 && t.fpu.st 0 == one && t.fpu.tw == 0x3FFF) = true ∧
    steps { on [] with fpu := { flat.fpu with tw := 0 } } [0xD9, 0xEE] (fun t => t.fpu.sw &&& 0x247 == 0x241 && t.fpu.st 0 == extIndefinite) = true ∧
    res (((on []).fpu.arithTop opAdd ((on []).fpu.arg 1))) 0x41 extIndefinite = true ∧
    res (((on [one, 0]).fpu.arithTop (fun _ a b => opDiv a b) ((on [one, 0]).fpu.arg 1))) 4 0x7FFF8000000000000000 = true ∧
    res (((on [0, 0]).fpu.arithTop (fun _ a b => opDiv a b) ((on [0, 0]).fpu.arg 1))) 1 extIndefinite = true ∧
    steps (on [0x7FFF8000000000000000]) [0xDB, 0x10] (fun t => t.fpu.sw &&& 0x3F == 1 && hasBytes 0x1000 [0, 0, 0, 0x80] t) = true ∧
    steps (on [0xC000A000000000000000]) [0xDB, 0x10] (fun t => t.fpu.sw &&& 0x23F == 0x20 && hasBytes 0x1000 [0xFE, 0xFF, 0xFF, 0xFF] t) = true ∧
    steps (on [0x4000B99999999999999A]) [0xDB, 0x08] (fun t => t.fpu.sw &&& 0x3F == 0x20 && hasBytes 0x1000 [2, 0, 0, 0] t && t.fpu.top == 0) = true ∧
    steps (on [qnan, one]) [0xD8, 0xD1] (fun t => t.fpu.sw &&& 0x4501 == 0x4501) = true ∧
    steps (on [qnan, one]) [0xDD, 0xE1] (fun t => t.fpu.sw &&& 0x4501 == 0x4500) = true ∧
    steps (on [one, two]) [0xDB, 0xF1] (hasFlags [(fZF, false), (fPF, false), (fCF, true)]) = true ∧
    steps { on [] with fpu := { flat.fpu with sw := 0x8081 } } [0xDB, 0xE3] (fun t => t.fpu.cw == 0x37F && t.fpu.sw == 0 && t.fpu.tw == 0xFFFF) = true ∧
    steps { on [] with fpu := { flat.fpu with sw := 0x3800 } } [0xDF, 0xE0] (hasRegs [(0, 0x3800)]) = true ∧
    steps (on []) [0xD9, 0x3B] (hasBytes 0x1000 [0x7F, 0x03]) = true ∧
    res (((on [one]).fpu.arithTop opAdd (argFp .single 0x3F800000))) 0 two = true := by decide +kernel

def withMm (a b : Word64) (s : State) : State :=
  { s with fpu := { s.fpu with regs := { s.fpu.regs with r0 := 0xFFFF#16 ++ a, r1 := 0xFFFF#16 ++ b } } }
def withX (a b : Word128) (s : State) : State := { s with xmm := { s.xmm with r0 := a, r1 := b } }

/-- Q30, Q33 to Q36, K27, K28, K30 to K32, K34, K35, G20, G21, G23 to G25, I22, I23, I25, I26. -/
theorem test_step_vectors :
    let mmx (a b : Word64) (bs : List Byte) (v : Word64) : Bool := steps (withMm a b flat) bs fun t => mm t 0 == v
    let sse (a b : Word128) (bs : List Byte) (v : Word128) (mxcsr : Word32) : Bool :=
      steps (withX a b flat) bs fun t => xmm t 0 == v && t.mxcsr == mxcsr
    steps (regs [(0, 1)] { flat with fpu := flat.fpu.setTop 5 }) [0x0F, 0x6E, 0xC0]
      (fun t => t.fpu.regs.r0 == 0xFFFF0000000000000001 && t.fpu.top == 0 && t.fpu.tw == 0) = true ∧
    mmx 0x7FFF7FFF7FFF7FFF 0x0001000100010001 [0x0F, 0xED, 0xC1] 0x7FFF7FFF7FFF7FFF = true ∧
    mmx 0x7FFF7FFF7FFF7FFF 0x0001000100010001 [0x0F, 0xFD, 0xC1] 0x8000800080008000 = true ∧
    mmx 0x0000000100000002 0x20 [0x0F, 0xF2, 0xC1] 0 = true ∧
    mmx 0x8000000000000000 0x40 [0x0F, 0xE2, 0xC1] 0xFFFFFFFF00000000 = true ∧
    sse 0x7F7FFFFF 0x7F7FFFFF [0xF3, 0x0F, 0x58, 0xC1] 0x7F800000 0x1FA8 = true ∧
    sse 0x00800000 0x3F000000 [0xF3, 0x0F, 0x59, 0xC1] 0x00400000 0x1F80 = true ∧
    sse 0x7FA00000 0x3F800000 [0xF3, 0x0F, 0x58, 0xC1] 0x7FE00000 0x1F81 = true ∧
    steps (withX 0x7FC00000 0x3F800000 flat) [0x0F, 0x2E, 0xC1]
      (fun t => t.mxcsr == 0x1F80 && hasFlags [(fZF, true), (fPF, true), (fCF, true), (fOF, false)] t) = true ∧
    steps (withX 0x7FC00000 0x3F800000 flat) [0x0F, 0x2F, 0xC1] (fun t => t.mxcsr == 0x1F81) = true ∧
    steps (regs [(0, 0x1000)] flat) [0x0F, 0xAE, 0x18] (hasBytes 0x1000 [0x80, 0x1F, 0, 0]) = true ∧
    sse 0x33333333222222221111111100000000 0x77777777666666665555555544444444 [0x0F, 0xC6, 0xC1, 0x4E]
      0x55555555444444443333333322222222 0x1F80 = true ∧
    sse 0x3FB999999999999A 0 [0xF2, 0x0F, 0x5A, 0xC0] 0x3FB999993DCCCCCD 0x1FA0 = true ∧
    steps (withX 0x7FF0000000000000 0 flat) [0xF2, 0x0F, 0x2D, 0xC0] (fun t => hasRegs [(0, 0x80000000)] t && t.mxcsr == 0x1F81) = true ∧
    sse 0x3FF00000000000004000000000000000 0x40080000000000004010000000000000 [0x66, 0x0F, 0x58, 0xC1]
      0x40100000000000004018000000000000 0x1F80 = true ∧
    sse 0x8000000000000000 0 [0xF2, 0x0F, 0x5F, 0xC1] 0 0x1F80 = true ∧
    sse 0xC010000000000000 0 [0xF2, 0x0F, 0x51, 0xC0] 0xFFF8000000000000 0x1F81 = true ∧
    sse 0x7F7F7F7F7F7F7F7F7F7F7F7F7F7F7F7F 0x01010101010101010101010101010101 [0x66, 0x0F, 0xEC, 0xC1]
      0x7F7F7F7F7F7F7F7F7F7F7F7F7F7F7F7F 0x1F80 = true ∧
    sse 0x00112233445566778899AABBCCDDEEFF 0 [0x66, 0x0F, 0x73, 0xD8, 0x10] 0 0x1F80 = true ∧
    steps flat [0x0F, 0xAE, 0xE9] (·.eip == 0x203) = true ∧ steps (regs [(3, 0x1000)] flat) [0x0F, 0xAE, 0x3B] (·.mem.length == 3) = true := by
  decide +kernel

/-- Real-address mode with the vector table at 0, its entry v at 0:5000H, and SP = 1000H. -/
def realAt (v : Nat) (s : State) : State :=
  bytesAt (4 * v) [0, 0x50]
    { regs [(4, 0x1000)] s with
      cr0 := s.cr0 &&& 0xFFFFFFFE, cs := .real 0 0, ss := .real 0 0, ds := .real 0 0, idtr := { base := 0, limit := 0xFFFF } }

/-- In real-address mode the bytes start the exception of a vector: IP, CS and FLAGS lie on the stack. -/
def traps (s : State) (bs : List Byte) (v : Nat) (ip : Byte) : Bool :=
  steps (realAt v s) bs fun t =>
    t.eip == 0x5000 && hasRegs [(4, 0xFFA)] t && hasBytes 0xFFA [ip, 2, 0, 0, s.eflags.setWidth 8, (s.eflags >>> 8).setWidth 8] t

/-- A63 to A66, E13 to E15, E17, E18, T30 to T33, Y21, Y23, Y29, Y31, X33, X35, Q31, K20, K22, K25, K33, P2: the saved
instruction pointer is that of the instruction, for INT 3 and INTO the next one's. -/
theorem test_step_exceptions :
    traps flat [0xF7, 0xF3] 0 0 = true ∧
    traps (regs [(2, 1), (3, 1)] flat) [0xF7, 0xF3] 0 0 = true ∧
    traps (regs [(2, 0xFFFF), (0, 0x8000), (3, 0xFFFF)] flat) [0xF7, 0xFB] 0 0 = true ∧
    traps flat [0xD4, 0x00] 0 0 = true ∧ traps flat [0x0F, 0x0B] 6 0 = true ∧
    traps flat [0xF0, 0x89, 0xD8] 6 0 = true ∧ traps flat [0xF0, 0x01, 0xD8] 6 0 = true ∧
    traps flat (List.replicate 14 0x66 ++ [0x89, 0xD8]) 13 0 = true ∧
    traps flat [0xD6] 6 0 = true ∧ traps flat [0xF1] 6 0 = true ∧
    traps (flags [fOF] flat) [0xCE] 4 1 = true ∧ traps flat [0xCC] 3 1 = true ∧
    traps flat [0x0F, 0x34] 13 0 = true ∧
    traps (regs [(0, 0x80000010)] flat) [0x0F, 0x22, 0xC0] 13 0 = true ∧
    traps (regs [(1, 0x12345)] flat) [0x0F, 0x32] 13 0 = true ∧
    traps flat [0x0F, 0x00, 0xD0] 6 0 = true ∧ traps flat [0x0F, 0xAA] 6 0 = true ∧
    traps { flat with cr0 := 0x3B } [0xD9, 0xE8] 7 0 = true ∧ traps { flat with cr0 := 0x3B } [0x9B] 7 0 = true ∧
    traps { flat with cr0 := 0x37 } [0x0F, 0x6F, 0xC1] 6 0 = true ∧
    traps (regs [(3, 0x1004)] flat) [0x0F, 0x28, 0x00] 13 0 = true ∧
    traps { flat with cr4 := 0 } [0x0F, 0x58, 0xC1] 6 0 = true ∧
    traps { withX 0x3F8000003F8000003F8000003F800000 0x3F800000000000003F8000003F800000 flat with mxcsr := 0x1D80 } [0x0F, 0x5E, 0xC1] 19
      0 = true ∧
    traps flat [0x66, 0x8B, 0x06, 0xFD, 0xFF] 13 0 = true := by decide +kernel

/-- The start state of X50 (60 R1510): user mode, an interrupt gate to level 0, the inner stack in the TSS. -/
def user : State :=
  let code : List Byte := [0xFF, 0xFF, 0, 0, 0, 0x9B, 0xCF, 0]
  let data : List Byte := [0xFF, 0xFF, 0, 0, 0, 0x93, 0xCF, 0]
  let s := bytesAt 0x3068 [0, 0x10, 8, 0, 0, 0x8E, 0, 0x80] (bytesAt 0x2010 data (bytesAt 0x2008 code flat))
  { bytesAt 0x4004 [0, 0, 0x20, 0x80, 0x10, 0] s with
    cpl := 3, cs := { flatSeg 0x1B 11 with dpl := 3 }, ss := { flatSeg 0x23 3 with dpl := 3 }, ds := { flatSeg 0x23 3 with dpl := 3 }
    eip := 0x401000, eflags := 0x246, gpr := { flat.gpr with r4 := 0x12FF00 }, tr := { flatSeg 0x28 11 with base := 0x4000, limit := 0x67 }
    idtr := { base := 0x3000, limit := 0x7FF }, gdtr := { base := 0x2000, limit := 0x1F } }

/-- MOV to CR0 of PE = 1 at the end of the 64 KBytes that real-address mode uses (10_state R46; log 48). -/
theorem test_pe_changes_after_next_pc :
    (match exec (.movToCr 0 0) { regs [(0, 1)] flat with cr0 := 0x10, eip := 0xFFFD, cur := { flat.cur with len := 3 } } with
     | .next t => t.eip == 0 && t.pe
     | _ => false) = true := by decide +kernel

/-- X50, where the delivery goes and its stack pointer (the frame holds free upper halves); X52, with the frame. -/
theorem test_step_delivery :
    steps user [0xF4] (fun t => hasRegs [(4, 0x801FFFE8)] t && t.eip == 0x80001000 && t.cs.sel == 8 && t.ss.sel == 0x10 && t.cpl == 0) = true ∧
    steps (bytesAt 0x40 [0x78, 0x56, 0x00, 0xF0]
        { State.reset with cs := .real 0x1000 0x10000, eip := 0x123, eflags := 0x202, gpr := { Eight.all 0 with r4 := 0x7C00 } }) [0xCD, 0x10]
      (fun t => hasRegs [(4, 0x7BFA)] t && t.cs.sel == 0xF000 && t.cs.base == 0xF0000 && t.eip == 0x5678 && t.eflags == 2 &&
        hasBytes 0x7BFA [0x25, 0x01, 0x00, 0x10, 0x02, 0x02] t) = true := by decide +kernel

/-- Corners of the rules: offsets end at FFFFH in real-address mode (20 R212); #AC of ten bytes (92 D4); fifteen bytes with a
16-bit offset (30 R302); two mandatory prefixes (93 U12); SMRAM outside SMM (20 R204); INVLPG of a large page (20 R240);
DR0 as a port (60 R1563); the STI shadow and a repeated string instruction (43 R851); RESET# in shutdown (70 R1770); an
unmasked overflow whose exponent fits once reduced (44 R923). -/
theorem test_step_corners :
    steps { realAt 13 (regs [(3, 0x10000)] flat) with ds := { SegReg.real 0 0 with limit := 0xFFFFFFFF } } [0x67, 0x8B, 0x03]
      (·.eip == 0x5000) = true ∧
    (let on (la : Word32) : Bool :=
       match dataAddrs .ds la 10 false { user with cr0 := 0x40033, eflags := 0x40246 } with
       | .ok _ _ => false
       | .error (.event e) _ => e.vector == 17
       | .error _ _ => false
     on 0x1002 = true ∧ on 0x1008 = false) ∧
    steps flat (List.replicate 11 0x66 ++ [0x0F, 0x85, 0x10, 0]) (·.eip == 0x21F) = true ∧
    (match step (bytesAt 0x200 [0x66, 0xF2, 0x0F, 0x58, 0xC1] flat) with | .refused r => r == .mixedPrefixes | _ => false) = true ∧
    (let t := physWrite8 { flat with inSmm := true } 0x38000 5
     physRead8 t 0x38000 = 5 ∧ physRead8 { t with inSmm := false } 0x38000 = 0) ∧
    (let piece (page : BitVec 20) : TlbEntry :=
       { page, frame := 0, size := .m4, user := true, writable := true, dirty := true, global := true }
     steps (regs [(0, 0x400000)] { flat with tlb := [piece 0x400, piece 0x7FF, piece 0x800] }) [0x0F, 0x01, 0x38]
       (·.tlb == [piece 0x800]) = true) ∧
    steps { flat with dr0 := 0xFFFF0080, dr7 := 0x20402, cr4 := 0x608 } [0xE6, 0x80] (·.traps == 1) = true ∧
    steps (regs [(1, 2)] { flags [fIF] flat with stiShadow := true, pending := { Pending.none with ext := some 0x20 } }) [0xF3, 0xA4]
      (fun t => t.stiShadow && t.pending.ext.isSome && hasRegs [(1, 1)] t) = true ∧
    (match step { flat with activity := .shutdown, pending := { Pending.none with reset := true } } with
      | .next t => t.eip == 0xFFF0 && t.cs.base == 0xFFFF0000 | _ => false) = true ∧
    (match opScale (extVal 0x3FFF8000000000000000) (extVal 0x400E9FFF000000000000) with
      | .val v => !scaleTooFar 0x37 v && (roundExt 0 64 0x37 v).val == some 0x7FFE8000000000000000 | _ => false) = true := by decide +kernel

/-- 46 R1143, R1145, R1146: a denormal source sets DE also beside a NaN, and where the root of a negative one is invalid. -/
theorem test_step_denormals :
    let sse (a b : Word128) (bs : List Byte) (v : Word128) (mxcsr : Word32) : Bool :=
      steps (withX a b flat) bs fun t => xmm t 0 == v && t.mxcsr == mxcsr
    sse 0x7FC00000 1 [0xF3, 0x0F, 0x58, 0xC1] 0x7FC00000 0x1F82 = true ∧
    sse 0x7FC00000 1 [0xF3, 0x0F, 0x5F, 0xC1] 1 0x1F83 = true ∧
    sse 1 0x7FC00000 [0xF3, 0x0F, 0xC2, 0xC1, 0] 0 0x1F82 = true ∧
    sse 0 0x80000001 [0xF3, 0x0F, 0x51, 0xC1] 0xFFC00000 0x1F83 = true := by decide +kernel

/-- Paging as in P6 and P7: a read and a write at linear 00401234H in user mode, and the flags left in the entries; P8. -/
def paged : State :=
  { bytesAt 0x10004 [0x07, 0x10, 1, 0] (bytesAt 0x11004 [0x07, 0x50, 2, 0] user) with cr0 := 0x80000033, cr3 := 0x10000 }

theorem test_translation :
    (match translate 0x401234 false true paged with
      | .ok a t => a == 0x25234 && physRead32 t 0x10004 == 0x11027 && physRead32 t 0x11004 == 0x25027 | _ => false) = true ∧
    (match translate 0x401234 true true paged with
      | .ok a t => a == 0x25234 && physRead32 t 0x11004 == 0x25067 | _ => false) = true ∧
    (match translate 0x401234 true true (bytesAt 0x11004 [0x05] paged) with
      | .error (.event e) _ => e == { vector := 14, err := some 7, cr2 := some 0x401234 } | _ => false) = true := by decide +kernel

/-- A delivery left by the step before goes on at the next (log 5), before an NMI; LFENCE with CR4.OSFXSR = 0 and with TS = 1
(log 24). -/
theorem test_step_events :
    (let s : State := bytesAt 0x18 [0x34, 0x12, 0, 0] (realAt 0 flat)
     let s : State := { s with pending := { Pending.none with nmi := true } }
     match step { s with redeliver := some { event := { vector := 6 }, pc := 0x50, savedEip := 0x50 } } with
       | .next t => t.eip == 0x1234 && t.redeliver == none && t.pending.nmi && hasBytes 0xFFA [0x50, 0] t
       | _ => false) = true ∧
    (let vector (cr0 cr4 : Word32) : Option Byte :=
       match sseUse Config.hasSse2 { flat with cr0, cr4 } with | .error (.event e) _ => some e.vector | _ => none
     vector 0x33 0x400 = some 6 ∧ vector 0x3B 0x600 = some 7 ∧ vector 0x33 0x600 = none) := by decide +kernel

/-- Reset: EIP at the vector; after it Z2's far jump; and how a program comes to run: a word placed at the fetch address. -/
theorem test_step_after_reset :
    steps State.reset [0xEA, 0x5B, 0xE0, 0, 0xF0] (fun t => t.cs.sel == 0xF000 && t.cs.base == 0xF0000 && t.eip == 0xE05B) = true ∧
    (match step (State.reset.withFetchWord 8 0x90) with | .next t => t.eip == 0xFFF1 | _ => false) = true ∧
    (match step (State.reset.withFetchWord 16 0x01D8) with | .next t => t.eip == 0xFFF2 | _ => false) = true := by decide +kernel

/-! ## Premises that are met

For every statement with premises, states and operands that meet the premises of each of its shapes together, at the ends
of the ranges where there are any. -/

/-- An outcome is a success, and its answer and state are good. -/
def succeeds {α : Type} (good : α → State → Bool) : EStateM.Result Halt State α → Bool
  | .ok a t => good a t
  | .error _ _ => false
theorem succeeds_iff {α : Type} {good : α → State → Bool} {r : EStateM.Result Halt State α} :
    succeeds good r = true ↔ ∃ a t, r = .ok a t ∧ good a t = true := by
  rcases r with ⟨a, t⟩ | ⟨e, t⟩ <;> simp [succeeds]

/-- The premises of `When`, `WhenOpen`, `Leaves` and `Traps`: LOCK as allowed, the accesses succeed, the condition holds. -/
def meets {α : Type} (s : State) (access : State → M α) (ok : State → α → Bool) (lock : Bool := false) : Bool :=
  (!s.cur.lock || lock) && succeeds (fun a t => ok (s.having t) a) (access s.begin s.begin)

theorem meets_spec {α : Type} {s : State} {access : State → M α} {ok : State → α → Bool} {lock : Bool}
    (h : meets s access ok lock = true) :
    LockOk s lock ∧ ∃ a t, access s.begin s.begin = .ok a t ∧ ok (s.having t) a = true := by
  have parts := (Bool.and_eq_true _ _).mp h
  exact ⟨fun hl => by simpa [hl] using parts.1, succeeds_iff.mp parts.2⟩

/-- The premises of `Enters`: the event can be delivered besides. -/
def enters {α : Type} (s : State) (access : State → M α) (ok : State → α → Bool) (e : Event) : Bool :=
  meets s (fun u => do let a ← access u; return (a, ← ask id)) fun u p =>
    ok u p.1 && succeeds (fun _ _ => true) (deliver e (s.savedEip e.kind) (e.note (s.forEvent p.2 e.kind)))

/-- A condition on the answer holds where it holds of the answer's value. -/
theorem meets_at {α : Type} [DecidableEq α] {s : State} {access : State → M α} {ok : State → Bool} {p : α → Bool} {c : α}
    (h : meets s access (fun u a => ok u && decide (a = c)) = true) (hp : p c = true) :
    meets s access (fun u a => ok u && p a) = true := by
  have parts := (Bool.and_eq_true _ _).mp h
  obtain ⟨a, t, reached, good⟩ := succeeds_iff.mp parts.2
  have both : ok (s.having t) = true ∧ a = c := by simpa using good
  exact (Bool.and_eq_true _ _).mpr ⟨parts.1, succeeds_iff.mpr ⟨a, t, reached, by simp [both, hp]⟩⟩

/-- Bit 16 is reserved whether or not the processor has DAZ; the reset value is allowed. -/
theorem mxcsr_mask : (0x1F80#32 &&& ~~~Config.mxcsrMask == 0) = true ∧ (0x10000#32 &&& ~~~Config.mxcsrMask == 0) = false := by
  unfold Config.mxcsrMask
  cases Config.hasDaz <;> decide

/-- A condition alone. -/
def when (s : State) (c : State → Bool) : Bool := meets s nothing fun u _ => c u

/-- The last doubleword, and the last 16 bytes, of the address space. -/
def lastWord : MemRef := .abs32 0xFFFFFFFC
def lastLine : MemRef := .abs32 0xFFFFFFF0

/-- The state with prefixes of the instruction set. -/
def pfx (f : Cur → Cur) (s : State) : State := { s with cur := f s.cur }
def locked : State := pfx (fun c => { c with lock := true }) flat
def op16 : State := pfx (fun c => { c with opsz := true }) flat
def repeated (z : Bool) : State := pfx (fun c => { c with rep := some z }) flat

/-- A place of each width: a high byte register, a word in a register, the last doubleword of memory, locked too. -/
def places : Bool :=
  meets flat (fun _ => locate .b (.reg 7) true) (fun u _ => u.wsz false == .b) &&
  meets op16 (fun _ => locate .w (.reg 7) true) (fun u _ => u.wsz true == .w) &&
  meets flat (fun _ => locate .d (.mem lastWord) true) (fun u _ => u.wsz true == .d) &&
  meets locked (fun _ => locate .b (.mem (.abs32 0xFFFFFFFF)) true) (fun u _ => u.wsz false == .b) (lock := true)
def sources : Bool :=
  meets flat (fun _ => readRm .b (.mem (.abs32 0xFFFFFFFF))) (fun u _ => u.wsz false == .b) &&
  meets op16 (fun _ => readRm .w (.mem (.abs32 0xFFFFFFFE))) (fun u _ => u.wsz true == .w) &&
  meets flat (fun _ => readRm .d (.mem lastWord)) (fun u _ => u.wsz true == .d)

theorem witness_PrefixEffects :
    locked.cur.lock = true ∧ isPrefix (.add (.rmReg true (.reg 0) 3)) = false ∧ aluLock (.rmReg true (.reg 0) 3) = false ∧
    isPrefix .nop = false ∧ incLock (.reg 0) = false ∧ lockable (.reg 0) = false ∧ bitLock (.imm (.reg 0) 1) = false := by decide +kernel

theorem witness_AdditionSubtractionAndLogic : places = true ∧ sources = true ∧ when flat (fun _ => true) = true := by decide +kernel

theorem witness_CompareTestAndUnary : places = true ∧ sources = true ∧
    meets flat (fun _ => readRm .b (.reg 4)) (fun u _ => u.wsz (immSz (.i8 0) != .b) == .b) = true ∧ when flat (fun _ => true) = true := by decide +kernel

/-- Division: 2^32 - 1 times 1 is the largest dividend that fits; the next one does not, nor does -2^31 by -1. -/
theorem witness_MultiplicationAndDivision : sources = true ∧
    (let udiv (u : State) (v : Word32) : Bool := v.toNat != 0 && decide ((u.wide .d).toNat / v.toNat < 2 ^ 32)
     let sdiv (u : State) (v : Word32) : Bool :=
       v.toInt != 0 && decide ((u.wide .d).toInt.tdiv v.toInt < 2 ^ 31) && decide (-2 ^ 31 ≤ (u.wide .d).toInt.tdiv v.toInt)
     let on (a d v : Word32) (c : State → Word32 → Bool) : Bool :=
       meets (regs [(0, a), (2, d), (3, v)] flat) (fun _ => readRm .d (.reg 3)) c
     on 0xFFFFFFFF 0 1 udiv = true ∧ on 0 1 1 (fun u v => !udiv u v) = true ∧ on 7 0 0 (fun u v => !udiv u v) = true ∧
     on 0x80000000 0xFFFFFFFF 1 sdiv = true ∧ on 0x80000000 0xFFFFFFFF 0xFFFFFFFF (fun u v => !sdiv u v) = true) := by decide +kernel

/-- A count of 31, and one of 32, which counts as 0. -/
theorem witness_ShiftsAndRotates :
    (let on (s : State) (f : ShiftForm) (sz : Sz) : Bool :=
       meets s (fun u => target sz (shiftRm f).2 (shiftCount u f != 0)) (fun u _ => u.wsz (shiftRm f).1 == sz)
     on (regs [(1, 31)] flat) (.cl false (.reg 7)) .b = true ∧ on flat (.imm true (.mem lastWord) 31) .d = true ∧
     on op16 (.one true (.reg 7)) .w = true ∧ on flat (.imm true (.mem lastWord) 32) .d = true ∧
     shiftCount flat (.imm true (.mem lastWord) 32) = 0) := by decide +kernel

theorem witness_DoubleShiftsAndBits :
    (let on (s : State) (f : DblForm) (sz : Sz) (c : Nat → Bool) : Bool :=
       meets s (fun u => target sz (dblOp f).1 (dblCount u f != 0)) (fun u _ => u.osz == sz && c (dblCount u f))
     on (regs [(1, 16)] op16) (.cl (.reg 0) 3) .w (fun c => decide (c ≤ 16)) = true ∧
     on (regs [(1, 17)] op16) (.cl (.reg 0) 3) .w (fun c => decide (16 < c)) = true ∧
     on flat (.imm (.mem lastWord) 3 31) .d (fun c => decide (c ≤ 32)) = true ∧
     on flat (.imm (.mem lastWord) 3 32) .d (fun c => decide (c ≤ 32)) = true) ∧
    meets (regs [(3, 0x80000000)] flat) (bitAt .d (.reg (.mem (.abs32 0x10000000)) 3) true) (fun u _ => u.osz == .d) = true ∧
    meets locked (bitAt .d (.imm (.mem lastWord) 31) true) (fun u _ => u.osz == .d) (lock := true) = true ∧
    meets flat (bitAt .d (.imm (.reg 0) 31) false) (fun u _ => u.osz == .d) = true ∧
    meets (regs [(0, 0x80000000)] flat) (fun _ => readRm .d (.reg 0)) (fun u v => u.osz == .d && v != 0) = true ∧
    meets flat (fun _ => readRm .d (.mem lastWord)) (fun u v => u.osz == .d && v == 0) = true := by decide +kernel

theorem witness_ExchangeAndBytes : places = true ∧
    meets locked (fun _ => memAddrs (.abs32 0xFFFFFFF8) 8 true) always (lock := true) = true ∧
    when flat (fun u => u.os32) = true ∧ when op16 (fun u => !u.os32) = true := by decide +kernel

theorem witness_FlagsAndDecimalAdjustment : when flat (fun _ => (10 : Byte) != 0) = true ∧ when flat (fun _ => true) = true := by decide +kernel

theorem witness_Moves : places = true ∧ sources = true ∧
    meets flat (fun u => loadMem 32 (u.dataSeg .ds) (moffsVal (.o32 0xFFFFFFFC))) (fun u _ => u.wsz true == .d) = true ∧
    meets flat (fun u => dataAddrs (u.dataSeg .ds) (moffsVal (.o32 0xFFFFFFFC)) 4 true) (fun u _ => u.wsz true == .d) = true ∧
    meets flat (fun _ => memAddrs (.abs32 0xFFFFFFFE) 2 true) always = true ∧
    meets flat (fun _ => readRm .w (.mem (.abs32 0xFFFFFFFE))) (fun _ _ => extSz true == .w) = true := by decide +kernel

theorem witness_AddressesAndConversions : sources = true ∧
    meets (regs [(3, 0xFFFFFF00), (0, 0xFF)] flat)
      (fun u => loadMem 8 (u.dataSeg .ds) (u.maskAs (u.reg32 rBX + (u.readReg .b rAX).setWidth 32))) always = true := by decide +kernel

/-- A descriptor of 4 GBytes with an access byte. -/
def desc (access : Byte) : List Byte := [0xFF, 0xFF, 0, 0, 0, access, 0xCF, 0]

/-- Descriptor tables: code 08H, data 10H, LDT 18H, TSS 20H, not-accessed data 28H, user code 30H and data 38H, absent data
40H, absent LDT 48H, absent TSS 50H. -/
def tables : State :=
  let put (sel : Nat) (access : Byte) : State → State := bytesAt (0x2000 + sel) (desc access)
  let s := put 0x28 0x92 (put 0x30 0xFB (put 0x38 0xF3 (put 0x40 0x13 (put 0x48 0x02 (put 0x50 0x09 flat)))))
  { put 0x08 0x9B (put 0x10 0x93 (put 0x18 0x82 (put 0x20 0x89 s))) with gdtr := { base := 0x2000, limit := 0x57 } }

/-- The same in user mode, with a stack. -/
def userTables : State :=
  { regs [(4, 0x1000)] tables with
    cpl := 3, cs := { flatSeg 0x33 11 with dpl := 3 }, ss := { flatSeg 0x3B 3 with dpl := 3 }, ds := { flatSeg 0x3B 3 with dpl := 3 } }

/-- Real-address mode. -/
def real : State := realAt 0 flat

theorem witness_SegmentLoads :
    meets (regs [(0, 0x10)] tables) (fun _ => do let sel : Word16 ← readRm .w (.reg 0); return (sel, ← newSeg .ss sel))
      (fun _ _ => Seg.ss != .cs) = true ∧
    meets real (fun _ => do let sel : Word16 ← readRm .w (.mem (.abs16 0xFFFE)); return (sel, ← newSeg .ds sel)) (fun _ _ => Seg.ds != .cs) = true ∧
    meets (regs [(4, 0x1000)] (bytesAt 0x1000 [0x28] tables))
      (fun u => do let v ← peek u.osz.bytes 0; return (v.setWidth 16, ← newSeg .ds (v.setWidth 16))) (fun _ (_ : Word16 × SegReg) => Seg.ds != .cs) = true ∧
    meets (bytesAt 0x1004 [0x10] tables)
      (fun _ => do
        let off ← readMem 32 (.abs32 0x1000)
        let sel ← readMemPlus 16 (.abs32 0x1000) 4
        return (off, sel, ← newSeg .ds sel)) (fun u _ => u.osz == .d) = true ∧
    (real.pe = false ∧ tables.pe = true ∧ isNull 3 = true ∧ isNull 4 = false ∧ tables.descAddr 0x50 = some 0x2050 ∧ tables.descAddr 0x58 = none ∧
     tables.paging = false) ∧
    (match sysRead 0x2028 8 tables with
      | .ok n _ => (segOfDesc 0x28 (BitVec.ofNat 64 n)).writable && (segOfDesc 0x28 (BitVec.ofNat 64 n)).p && !(BitVec.ofNat 64 n : Word64).getLsbD 40
      | _ => false) = true ∧
    (match sysRead 0x2040 8 tables with | .ok n _ => (segOfDesc 0x40 (BitVec.ofNat 64 n)).readable && !(segOfDesc 0x40 (BitVec.ofNat 64 n)).p | _ => false) = true ∧
    (match sysRead 0x2010 8 tables with | .ok n _ => (BitVec.ofNat 64 n : Word64).getLsbD 40 | _ => false) = true ∧
    (match sysRead 0x2008 8 tables with | .ok n _ => !(segOfDesc 0x08 (BitVec.ofNat 64 n)).writable | _ => false) = true := by decide +kernel

/-- A stack whose next slot is the lowest doubleword of the stack segment; and SP = 1. -/
def atTop : State := regs [(4, 4)] flat
def spIsOne : State := regs [(4, 1)] real

theorem witness_Pushes :
    meets atTop (fun u => do let v ← readRm .d (.mem lastWord); return (v, ← pushSlot u)) (fun u _ => u.osz == .d) = true ∧
    meets atTop pushSlot always = true ∧ meets (pfx (fun c => { c with opsz := true }) atTop) pushSlot (fun u _ => !u.os32) = true ∧
    meets atTop pushSlot (fun u _ => u.os32) = true ∧
    meets (regs [(4, 32)] flat) (fun u => do return (← pushSlots u.osz.bytes u.esp 8).1) always = true ∧
    when spIsOne spOne = true ∧ meets spIsOne (fun _ => readRm .w (.mem (.abs16 0xFFFE))) (fun u _ => u.osz == .w && spOne u) = true ∧
    meets spIsOne (fun u => selSlot u.osz.bytes (u.seg .fs).sel) (fun u _ => spOne u) = true ∧
    (let run (esp : Word32) (k : Nat) (s : State) (at_ : Word32) : Bool :=
       meets (regs [(4, esp)] s) (fun u => pushSlots u.osz.bytes u.esp k) fun u _ =>
         !u.pe && !u.inSmm && u.stackOff (espDown u (k * u.osz.bytes)) == at_
     let wide : State := pfx (fun c => { c with opsz := true }) real
     run 15 7 real 1 = true ∧ run 29 7 wide 1 = true ∧ run 31 7 wide 3 = true ∧ run 2 0 wide 2 = true ∧ wide.os32 = true ∧
     meets (regs [(4, 17)] real) (fun u => do return (← pushSlots u.osz.bytes u.esp 8).1) always = true) := by decide +kernel

theorem witness_PopsAndFrames :
    meets (regs [(4, 0xFFFFFFFC)] flat) (fun u => peek u.osz.bytes 0) always = true ∧
    meets (regs [(4, 0xFFFFFFFC)] flat)
      (fun u => do
        let v ← peek 4 0
        setEsp (espUp u 4)
        return (v, ← locate .d (.mem (.sib 0 4 4 .none)) true)) (fun u _ => u.osz == .d) = true ∧
    meets (regs [(4, 0x1000)] flat) (fun u => (List.range 8).mapM fun k => peek u.osz.bytes (u.osz.bytes * k)) always = true ∧
    meets (regs [(4, 0x1000), (5, 0x1100)] flat)
      (fun u => do
        let (first, top) ← slotBelow u.osz.bytes u.esp
        let (copies, below) ← enterSlots u.osz.bytes top (u.reg32 rBP) 30
        return (first, copies, (← pushSlots u.osz.bytes below 1).1)) (fun _ p => p.2.1.length == 30) = true ∧
    meets (regs [(5, 0x1100)] flat)
      (fun u => do
        setEsp (if u.stack32 then u.reg32 rBP else u.esp.extractLsb' 16 16 ++ (u.reg32 rBP).setWidth 16)
        peek u.osz.bytes 0) always = true := by decide +kernel

/-- The premises of `Repeats`: no prefix; a count of 0; a count of 1, the last iteration. -/
def repeats {α : Type} (access : State → M α) (ok : State → α → Bool) : Bool :=
  meets flat access (fun u a => ok u a && u.cur.rep.isNone) &&
  when (repeated true) (fun u => u.cur.rep.isSome && u.asReg rCX == 0) &&
  meets (regs [(1, 1)] (repeated false)) access (fun u a => ok u a && u.cur.rep.isSome && u.asReg rCX != 0) &&
  meets (regs [(1, 0xFFFFFFFF)] (repeated true)) access (fun u a => ok u a && u.cur.rep.isSome && u.asReg rCX != 0)

theorem witness_StringInstructions :
    repeats (fun u => do let v ← srcAt .d u; return (v, ← dstAt .d u true)) (fun u _ => u.wsz true == .d) = true ∧
    repeats (fun u => do let a ← srcAt .b u; return (a, ← loadMem 8 .es (u.asReg rDI))) (fun u _ => u.wsz false == .b) = true ∧
    repeats (fun u => dstAt .d u true) (fun u _ => u.wsz true == .d) = true ∧ repeats (srcAt .d) (fun u _ => u.wsz true == .d) = true ∧
    repeats (fun u => loadMem 8 .es (u.asReg rDI)) (fun u _ => u.wsz false == .b) = true := by decide +kernel

/-- User mode with IOPL 0 and a permission bit map at offset 80H whose first byte denies port 5, in a TSS that ends with
the byte of ports 0F8H to 0FFH. -/
def ported : State :=
  bytesAt 0x4080 [0x20] (bytesAt 0x4066 [0x80] { userTables with tr := { flatSeg 0x20 11 with base := 0x4000, limit := 0x9F } })

theorem witness_PortInputOutput :
    meets flat (fun u => do checkPort (u.portOf (.imm true 0xFC)) 4; noteIo (u.portOf (.imm true 0xFC)) 4; return portIn .d (u.portOf (.imm true 0xFC)) (← nextDraw)) (fun u _ => u.wsz true == .d) = true ∧
    meets ported (fun u => do checkPort (u.portOf (.imm false 4)) 1; noteIo (u.portOf (.imm false 4)) 1) (fun u _ => u.wsz false == .b) = true ∧
    repeats (fun u => do checkPort u.dxPort 4; let as ← dstAt .d u true; noteIo u.dxPort 4; return (as, portIn .d u.dxPort (← nextDraw))) (fun u _ => u.wsz true == .d) = true ∧
    repeats (fun u => do checkPort u.dxPort 1; let v ← srcAt .b u; noteIo u.dxPort 1; return v) (fun u _ => u.wsz false == .b) = true ∧
    real.pe = false ∧ (flat.cpl ≤ flat.iopl) ∧ ported.pe = true ∧ ported.iopl < ported.cpl ∧
    (match sysRead 0x4066 2 ported with
      | .ok base t => base == 0x80 && decide (base + (0xFF + 1 - 1) / 8 ≤ ported.tr.limit.toNat) && decide (ported.tr.limit.toNat < base + (0xFD + 4 - 1) / 8) &&
          (match sysRead 0x4080 1 t with | .ok bits _ => bits.testBit 5 && !bits.testBit 4 | _ => false)
      | _ => false) = true := by decide +kernel

/-- A code segment that ends at 2FFH. -/
def short (s : State) : State := { s with cs := { s.cs with limit := 0x2FF, g := false } }

theorem witness_NearTransfers :
    (let target (d : Byte) (u : State) : Word32 := cutOs u (u.nextPc + BitVec.ofInt 32 (relVal (.i8 d)).toInt)
     let at_ := { short flat with eip := 0x290 }
     when at_ (fun u => u.inLimit u.cs (target 0x6F u) 1) = true ∧ when at_ (fun u => !u.inLimit u.cs (target 0x70 u) 1) = true ∧
     meets (regs [(4, 4)] at_) (fun u => do return (← pushSlots u.osz.bytes u.esp 1).1.flatten) (fun u _ => u.inLimit u.cs (target 0x6F u) 1) = true) ∧
    meets (regs [(0, 0x2FF)] (short flat)) (fun _ => readRm .d (.reg 0)) (fun u v => u.osz == .d && u.inLimit u.cs v 1) = true ∧
    meets (regs [(0, 0x300)] (short flat)) (fun _ => readRm .d (.reg 0)) (fun u v => u.osz == .d && !u.inLimit u.cs v 1) = true ∧
    meets (regs [(0, 0x2FF), (4, 0x1000)] (short flat))
      (fun u => do
        let v ← readRm .d (.reg 0)
        return (v, (← pushSlots 4 u.esp 1).1.flatten)) (fun u (p : Word32 × List Nat) => u.osz == .d && u.inLimit u.cs p.1 1) = true ∧
    meets (bytesAt 0x1000 [0xFF, 2] (regs [(4, 0x1000)] (short flat))) (fun u => peek u.osz.bytes 0) (fun u v => u.inLimit u.cs v 1) = true ∧
    meets (bytesAt 0x1000 [0, 3] (regs [(4, 0x1000)] (short flat))) (fun u => peek u.osz.bytes 0) (fun u v => !u.inLimit u.cs v 1) = true ∧
    when (regs [(1, 1)] flat) (fun u => !(count u != 1)) = true ∧ when flat (fun u => count u != 1) = true ∧
    when flat (fun u => count u == 0) = true ∧ when (regs [(1, 2)] (flags [fZF] flat)) (fun u => count u != 1 && u.flag fZF) = true ∧
    when (regs [(1, 2)] flat) (fun u => count u != 1 && !u.flag fZF) = true ∧ when flat (fun u => u.cond 5 && !u.cond 4) = true := by decide +kernel

theorem witness_FarTransfers :
    meets real (fun _ => farPointer (.ptr (.p16 0xFFFF 0xFFFF))) (fun u _ => !u.pe) = true ∧
    meets tables (fun _ => do let p ← farPointer (.ptr (.p32 0xFFFFFFFF 8)); return (p, ← farTarget p.2 p.1)) (fun u _ => u.pe) = true ∧
    meets real (fun u => do let p ← farPointer (.mem (.abs16 0xFFFC)); return (p, (← pushSlots u.osz.bytes u.esp 2).1)) (fun u _ => !u.pe) = true ∧
    meets (regs [(4, 8)] tables)
      (fun u => do
        let p ← farPointer (.ptr (.p32 0x5000 8))
        let cs ← farTarget p.2 p.1
        return (p, cs, (← pushSlots u.osz.bytes u.esp 2).1)) (fun u _ => u.pe) = true ∧
    meets real popFar (fun u _ => !u.pe) = true ∧
    (let back (n : Nat) (s : State) : Bool :=
       meets (regs [(4, 0x1000)] s) (fun u => do returnAccess n u (← popFar u)) (fun u r => u.pe && u.cpl ≤ selRpl r.2.1.sel)
     back 0 (bytesAt 0x1004 [8] tables) = true ∧ back 4 (bytesAt 0x1004 [0x33] (bytesAt 0x1010 [0x3B] tables)) = true) ∧
    meets (bytesAt 0x1004 [8] userTables) popFar (fun u p => u.pe && selRpl p.2 < u.cpl) = true ∧
    (let found (sel : Word16) (c : SegReg → Bool) : Bool :=
       !isNull sel && (match tables.descAddr sel with
         | some a => (match sysRead a 8 tables with | .ok n _ => c (segOfDesc sel (BitVec.ofNat 64 n)) | _ => false)
         | none => false)
     let code (r : SegReg) : Bool := r.s && r.typ.getLsbD 3
     found 0x20 (fun r => !r.s && r.typ == 9) = true ∧ found 0x18 (fun r => !r.s && r.typ == 2) = true ∧
     found 0x10 (fun r => r.s && !r.typ.getLsbD 3) = true ∧ found 0x30 (fun r => code r && r.dpl == 3) = true ∧
     found 0x08 (fun r => code r && r.p && r.dpl == 0 && r.limit == 0xFFFFFFFF && r.typ.getLsbD 0) = true) := by decide +kernel

theorem witness_SoftwareExceptions :
    enters real nothing always { vector := 255, kind := .soft } = true ∧
    enters (flags [fOF] real) nothing (fun u _ => u.flag fOF) { vector := 4, kind := .soft } = true ∧
    when flat (fun u => !u.flag fOF) = true ∧ enters real nothing always { vector := 6 } = true ∧
    (let bounds : State → M (Int × Int) := fun _ => do
       let lo ← readMem 16 (.abs16 0x100)
       let hi ← readMemPlus 16 (.abs16 0x100) 2
       return (lo.toInt, hi.toInt)
     let inside (u : State) (b : Int × Int) : Bool := decide (b.1 ≤ (u.readReg .w 0).toInt) && decide ((u.readReg .w 0).toInt ≤ b.2)
     let on (ax : Word32) : State := regs [(0, ax)] (bytesAt 0x100 [0xFF, 0xFF, 2, 0] real)
     meets (on 2) bounds (fun u b => u.osz == .w && inside u b) = true ∧ meets (on 0xFFFF) bounds (fun u b => u.osz == .w && inside u b) = true ∧
     enters (on 3) bounds (fun u b => u.osz == .w && !inside u b) { vector := 5 } = true) := by decide +kernel

theorem witness_InterruptReturn :
    (let frame (u : State) : M ((Word32 × Word16) × Word32) := do
       let dest ← popFar u
       return (dest, ← peek u.osz.bytes (2 * u.osz.bytes))
     meets real frame (fun u _ => !u.pe) = true ∧
     meets (bytesAt 0x1004 [8] userTables) frame (fun u p => u.pe && !u.flag fVM && !u.flag fNT && selRpl p.1.2 < u.cpl) = true) ∧
    (let back (u : State) : M (Word32 × Word32 × SegReg × Option (SegReg × Word32)) := do
       let dest ← popFar u
       let image ← peek u.osz.bytes (2 * u.osz.bytes)
       return (image, ← returnAccess u.osz.bytes u dest)
     let may (u : State) (p : Word32 × Word32 × SegReg × Option (SegReg × Word32)) : Bool :=
       u.pe && !u.flag fVM && !u.flag fNT && !(u.os32 && p.1.getLsbD fVM && u.cpl == 0) && u.cpl ≤ selRpl p.2.2.1.sel
     meets (regs [(4, 0x1000)] (bytesAt 0x1004 [8] tables)) back may = true ∧
     meets (regs [(4, 0x1000)] (bytesAt 0x1004 [0x33] (bytesAt 0x1010 [0x3B] tables))) back may = true) := by decide +kernel

theorem witness_FastSystemCalls :
    (let usable (u : State) : Bool := u.pe && !isNull (u.msr.sysenterCs.setWidth 16)
     let sys : State := { flat with msr := { flat.msr with sysenterCs := 8 } }
     when sys usable = true ∧ when flat (fun u => !usable u) = true ∧ when sys (fun u => usable u && u.cpl == 0) = true ∧
     when { sys with cpl := 3 } (fun u => !(usable u && u.cpl == 0)) = true) := by decide +kernel

theorem witness_ControlAndDebugRegisters :
    when flat (fun _ => !crKnown 1) = true ∧ when { flat with cpl := 3 } (fun u => crKnown 4 && !privOk u) = true ∧
    when flat (fun u => crKnown 0 && privOk u) = true ∧ when (regs [(0, 0x80000011)] flat) (fun u => (crWrite u 0 (u.reg32 0)).isSome) = true ∧
    when (regs [(0, 0x80000010)] flat) (fun u => (crWrite u 0 (u.reg32 0)).isNone) = true ∧
    when (regs [(0, 0x7FF)] flat) (fun u => (crWrite u 4 (u.reg32 0)).isSome) = true ∧
    when (regs [(0, 0x800)] flat) (fun u => (crWrite u 4 (u.reg32 0)).isNone) = true ∧
    when { flat with cr4 := 0x608 } (fun u => (drOf u 4).isNone) = true ∧ when { flat with cpl := 3 } (fun u => (drOf u 4).isSome && !privOk u) = true ∧
    when { flat with dr7 := 0x2400 } (fun u => (drOf u 7).isSome && privOk u && u.dr7.getLsbD 13) = true ∧
    when flat (fun u => (drOf u 5).isSome && privOk u && !u.dr7.getLsbD 13) = true := by decide +kernel

theorem witness_DescriptorTables :
    meets flat (pseudoSlots (.abs32 0xFFFFFFFA)) (fun u _ => u.os32) = true ∧ meets op16 (pseudoSlots (.abs32 0x1000)) (fun u _ => !u.os32) = true ∧
    when { flat with cpl := 3 } (fun u => !privOk u) = true ∧ when real (fun u => !u.pe) = true ∧ when flat (fun u => u.pe) = true ∧
    meets flat (fun _ => do let limit : Word16 ← readMem 16 (.abs32 0x1000); let base : Word32 ← readMemPlus 32 (.abs32 0x1000) 2; return (limit, base))
      (fun u _ => privOk u) = true ∧
    meets flat (fun _ => memAddrs (.abs32 0xFFFFFFFE) 2 true) (fun u _ => u.pe) = true ∧
    (let may (u : State) : Bool := u.pe && u.cpl == 0
     let ldt (d : Word64) : Bool := !descS d && descType d == 2
     let tss (d : Word64) : Bool := !descS d && descType d == 9
     let on (sel : Word32) : State := regs [(0, sel)] tables
     let sel (c : State → Word16 → Bool) (v : Word32) : Bool := meets (on v) (fun _ => readRm .w (.reg 0)) c
     let found (c : State → Word16 × Option Word64 → Bool) (v : Word32) : Bool := meets (on v) (selDesc (.reg 0)) c
     sel (fun u s => may u && isNull s) 3 = true ∧ sel (fun u s => may u && !isNull s && s.getLsbD 2) 4 = true ∧
     found (fun u p => may u && !p.1.getLsbD 2 && p.2.any fun d => ldt d && descP d) 0x18 = true ∧
     found (fun u p => may u && !isNull p.1 && !p.1.getLsbD 2 && !p.2.any ldt) 0x58 = true ∧
     found (fun u p => may u && !isNull p.1 && !p.1.getLsbD 2 && !p.2.any fun d => tss d || (!descS d && descType d == 1)) 0x10 = true ∧
     found (fun u p => may u && !p.1.getLsbD 2 && p.2.any fun d => ldt d && !descP d) 0x48 = true ∧
     found (fun u p => may u && !p.1.getLsbD 2 && p.2.any fun d => tss d && !descP d) 0x50 = true ∧
     meets (regs [(0, 0x40)] (bytesAt 0x2040 (desc 0x81) tables)) (selDesc (.reg 0))
       (fun u p => may u && !p.1.getLsbD 2 && p.2.any fun d => !descS d && descType d == 1 && descP d) = true ∧
     meets (on 0x20)
       (fun u => do
         let p ← selDesc (.reg 0) u
         match u.descAddr p.1, p.2 with
         | some a, some d =>
           if tss d then sysWrite (a + 5) 1 ((d.extractLsb' 40 8).toNat + 2)
           return (p.1, d)
         | _, _ => return (p.1, 0))
       (fun u p => may u && !p.1.getLsbD 2 && tss p.2 && descP p.2) = true) := by decide +kernel

theorem witness_StatusWordAndInterruptFlag :
    (let iplOk (u : State) : Bool := !u.pe || u.cpl ≤ u.iopl
     let up : State := { flat with cpl := 3 }
     when up (fun u => !privOk u) = true ∧ when flat privOk = true ∧ meets flat (fun _ => readRm .w (.mem (.abs32 0xFFFFFFFE))) (fun u _ => privOk u) = true ∧
     when flat (fun u => u.os32) = true ∧ when op16 (fun u => !u.os32) = true ∧ meets flat (fun _ => memAddrs (.abs32 0xFFFFFFFE) 2 true) always = true ∧
     when (flags [12, 13] up) iplOk = true ∧ when real iplOk = true ∧ when up (fun u => !iplOk u && !(u.cr4.getLsbD 1 && u.cpl == 3)) = true) := by
  decide +kernel

theorem witness_ProtectionChecks :
    when real (fun u => !u.pe) = true ∧ meets (regs [(0, 0x50)] tables) (selDesc (.reg 0)) (fun u p => u.pe && p.2.isSome) = true ∧
    meets (regs [(0, 0x58)] tables) (selDesc (.reg 0)) (fun u p => u.pe && p.2.isNone) = true ∧
    meets (regs [(3, 0)] flat)
      (fun _ => do
        probe (locate .w (.mem (.abs32 0xFFFFFFFE)) true)
        readRm .w (.mem (.abs32 0xFFFFFFFE))) (fun u (v : Word16) => u.pe && !decide (v.toNat % 4 < (u.readReg .w 3).toNat % 4)) = true ∧
    meets (regs [(0, 2), (3, 3)] flat)
      (fun _ => do
        probe (locate .w (.reg 0) true)
        let v : Word16 ← readRm .w (.reg 0)
        return (v, ← locate .w (.reg 0) true)) (fun u p => u.pe && decide (p.1.toNat % 4 < (u.readReg .w 3).toNat % 4)) = true := by decide +kernel

theorem witness_IdentificationAndCounters :
    when flat (fun u => u.reg32 rAX == 0) = true ∧ when (regs [(0, 1)] flat) (fun u => u.reg32 rAX == 1) = true ∧ when (regs [(0, 5)] flat) (fun u => u.reg32 rAX == 5) = true ∧
    when (regs [(0, 0xFFFFFFFF)] flat) (fun _ => true) = true ∧
    meets flat (fun _ => free 64) (fun u _ => !u.cr4.getLsbD 2 || u.cpl == 0) = true ∧
    when { flat with cr4 := 4, cpl := 3 } (fun u => u.cr4.getLsbD 2 && u.cpl != 0) = true ∧
    (let may (k : Nat) (u : State) : Bool := k ≤ 5 && (u.cr4.getLsbD 8 || u.cpl == 0) && (u.reg32 rCX).toNat % 2 ^ 31 == 12 + k
     meets (regs [(1, 12)] flat) (fun _ => free 40) (fun u _ => may 0 u) = true ∧
     meets (regs [(1, 0x80000011)] { flat with cr4 := 0x100, cpl := 3 }) (fun _ => free 40) (fun u _ => may 5 u) = true) ∧
    (let not (u : State) : Bool :=
       (!u.cr4.getLsbD 8 && u.cpl != 0) || decide ((u.reg32 rCX).toNat % 2 ^ 31 < 12) || decide (17 < (u.reg32 rCX).toNat % 2 ^ 31)
     when (regs [(1, 11)] flat) not = true ∧ when (regs [(1, 18)] flat) not = true ∧ when (regs [(1, 12)] { flat with cpl := 3 }) not = true) := by decide +kernel

theorem witness_ModelSpecificRegisters :
    (let at_ (m : Word32) : State := regs [(1, m)] flat
     let here (m : Nat) (u : State) : Bool := privOk u && (u.reg32 rCX).toNat == m
     let v (u : State) : Word64 := u.reg32 rDX ++ u.reg32 rAX
     when { flat with cpl := 3 } (fun u => !privOk u) = true ∧
     ([0x174, 0x175, 0x176, 0x8B, 0x19A, 0x19C, 0x1A0, 0x1D9, 0x36C, 0x371, 0x3B8, 0x3E1, 0x680, 0x68F, 0x6C0, 0x6CF, 0x1DA, 0x10,
         0x17, 0x30C, 0x311].all fun m =>
       when (at_ (BitVec.ofNat 32 m)) fun u => here m u && v u == 0) = true ∧
     (let clean (u : State) : Bool := (List.range 64).all fun i => mciOpen (v u) i || !(v u).getLsbD i
      when (regs [(2, 0xFE000000), (0, 0x0C000400)] (at_ 0x401)) (fun u => here 0x401 u && clean u) = true ∧
      when (regs [(2, 0x100)] (at_ 0x40D)) (fun u => here 0x40D u && !clean u) = true ∧
      when (regs [(0, 0x00100800)] (at_ 0x405)) (fun u => here 0x405 u && !clean u) = true ∧
      when (regs [(0, 0x00400100)] (at_ 0x409)) (fun u => here 0x409 u && !clean u) = true) ∧
     meets (at_ 0x10) (fun _ => free 64) (fun u _ => here 0x10 u) = true ∧ meets (at_ 0x30C) (fun _ => free 40) (fun u _ => here 0x30C u) = true ∧
     when (regs [(0, 0x1030)] (at_ 0x79)) (fun u => here 0x79 u && u.reg32 rDX == 0 && (u.reg32 rAX).toNat % 16 == 0 && !u.paging) = true ∧
     here 0x79 (regs [(0, 0x1031)] (at_ 0x79)) = true ∧ here 0xFE (at_ 0xFE) = true ∧
     when (regs [(0, 1)] (at_ 0x8B)) (fun u => here 0x8B u && v u &&& 0xFFFFFFFF != 0) = true ∧
     when (regs [(0, 4)] (at_ 0x19C)) (fun u => here 0x19C u && v u &&& 0xFFFFFFFFFFFFFFFC != 0) = true ∧
     when (regs [(2, 1)] (at_ 0x680)) (fun u => here 0x680 u && v u &&& 0xFFFFFFFF00000000 != 0) = true ∧
     when (at_ 0x79) (fun u => privOk u && !msrReads (u.reg32 rCX).toNat && (u.reg32 rCX).toNat != 0xFE) = true ∧
     when (at_ 0x17) (fun u => privOk u && !msrWrites (u.reg32 rCX).toNat && (u.reg32 rCX).toNat != 0xFE) = true) := by decide +kernel

/-- In SMM, with what was saved. -/
def inSmm (c : Cpu) : State := { flat with inSmm := true, smmDump := some c }

theorem witness_MonitorWaitResumeAndInvd :
    (let may (u : State) : Bool := u.cpl == 0 && u.reg32 rCX == 0
     meets (regs [(0, 0xFFFFFFFF)] flat) (fun u => dataAddrs (u.dataSeg .ds) (u.maskAs (u.reg32 rAX)) 1 false) (fun u _ => may u) = true ∧
     when flat may = true ∧ when { flat with cpl := 1 } (fun u => u.cpl != 0) = true ∧
     when (regs [(1, 1)] flat) (fun u => u.cpl == 0 && u.reg32 rCX != 0) = true ∧ when flat (fun u => !u.inSmm) = true ∧
     when { flat with cpl := 3 } (fun u => !privOk u) = true ∧ when flat privOk = true) ∧
    (let bad (c : Cpu) : Bool := decide (2 ^ 11 ≤ c.cr4.toNat) || (c.cr0.getLsbD 31 && !c.cr0.getLsbD 0) || (c.cr0.getLsbD 29 && !c.cr0.getLsbD 30)
     let good : Cpu := flat.toCpu
     let wrong : Cpu := { good with cr4 := 0x800 }
     (inSmm good).smmRestart = none ∧ good.activity ≠ .halted ∧ ({ good with activity := .halted } : Cpu).activity = .halted ∧
     ({ inSmm good with smmRestart := some { eip := 0, ecx := 1, esi := 0, edi := 0 } } : State).smmRestart.isSome = true ∧
     (inSmm good).inSmm = true ∧ (inSmm good).smmDump = some good ∧ (inSmm good).cur.lock = false ∧ bad good = false ∧
     (inSmm wrong).smmDump = some wrong ∧ bad wrong = true) := by decide +kernel

/-- An unmasked x87 exception waits. -/
def pending87 (s : State) : State := { s with fpu := { s.fpu with sw := 0x8081, cw := 0x037E } }

theorem witness_UnitAvailability :
    (let em : State := { flat with cr0 := 0x37 }
     let ts : State := { flat with cr0 := 0x3B }
     let ne : State := pending87 flat
     vUnit (.psllw (.by (.mm 1 (.reg 2)))) = some .mmx ∧ vUnit .mfence = some .xmm ∧ vUnit (.cvtpi2ps 1 (.reg 2)) = some .both ∧
     vWide (.addps 1 (.mem (.abs32 0x100F))) = some (.mem (.abs32 0x100F)) ∧
     when (pending87 { flat with cr0 := 0x13 }) (fun u => vReady u && xPresent u && u.fpu.sw.getLsbD 7 && !u.cr0.getLsbD 5) = true ∧
     xWaits .fld1 = true ∧ xNoWait .fninit = true ∧ when em (fun u => !xPresent u) = true ∧ when ts (fun u => !xPresent u) = true ∧
     when ne (fun u => xPresent u && u.fpu.sw.getLsbD 7 && u.cr0.getLsbD 5) = true ∧
     (let old : State := pending87 { flat with cr0 := 0x13 }
      xPresent old = true ∧ old.fpu.sw.getLsbD 7 = true ∧ old.cr0.getLsbD 5 = false ∧ old.cur.lock = false) ∧
     when flat (fun u => !(u.cr0.getLsbD 1 && u.cr0.getLsbD 3) && !u.fpu.sw.getLsbD 7) = true ∧ when ts (fun u => u.cr0.getLsbD 1 && u.cr0.getLsbD 3) = true ∧
     when ne (fun u => !(u.cr0.getLsbD 1 && u.cr0.getLsbD 3) && u.fpu.sw.getLsbD 7 && u.cr0.getLsbD 5) = true ∧
     when em (fun u => u.cr0.getLsbD 2) = true ∧ when ts (fun u => !u.cr0.getLsbD 2 && u.cr0.getLsbD 3) = true ∧
     when { flat with cr4 := 0 } (fun u => u.cr0.getLsbD 2 || !u.cr4.getLsbD 9) = true ∧
     when ts (fun u => !u.cr0.getLsbD 2 && u.cr4.getLsbD 9 && u.cr0.getLsbD 3) = true ∧
     when ne (fun u => vReady u && u.fpu.sw.getLsbD 7 && u.cr0.getLsbD 5) = true ∧
     when flat (fun u => vReady u && ((u.seg (u.memSeg (.abs32 0x100F))).base + u.ea (.abs32 0x100F)).toNat % 16 != 0) = true ∧
     (let real : State := { flat with cr0 := 0x32 }
      when real (fun u => xReady u && !u.pe && !u.inSmm && decide (0x10000 < (u.ea (.abs32 0xFFF9)).toNat + 8)) = true ∧
      when real (fun u => vReady u && !u.pe && !u.inSmm && decide (0x10000 < (u.ea (.abs32 0xFFF1)).toNat + 16)) = true)) := by
  decide +kernel

/-- R1062 in real-address mode: PADDB with an operand beyond FFFFH through SS goes to vector 13, one at FFF8H completes. -/
theorem test_real_mode_stack_operand :
    let real : State := { flat with cr0 := 0x32 }
    let run (off : Word32) := pkRun true (mapLanes fun a b : BitVec 8 => a + b) (.mm 0 (.mem (.abs32 off)))
    let onStack : State := { real with cur := { real.cur with seg := some .ss } }
    (match realGp (run 0xFFF9) onStack with | .error (.event e) _ => e.vector == 13 | _ => false) = true ∧
    (match run 0xFFF9 onStack with | .error (.event e) _ => e.vector == 12 | _ => false) = true ∧
    (match realGp (run 0xFFF8) onStack with | .ok _ _ => true | _ => false) = true := by decide +kernel

/-- Reads and writes of the x87 formats, the last one at the end of the address space. -/
theorem witness_X87Loads :
    when flat xReady = true ∧ meets flat (fun _ => readMem 32 lastWord) (fun u _ => xReady u) = true ∧
    meets flat (fun _ => readMem 80 (.abs32 0xFFFFFFF6)) (fun u _ => xReady u) = true ∧ meets flat (fun _ => readMem 64 (.abs32 0x1000)) (fun u _ => xReady u) = true ∧
    meets flat (fun _ => readMem 16 (.abs32 0x1000)) (fun u _ => xReady u) = true ∧
    meets (bytesAt 0x1000 (List.replicate 9 0x99) flat) (fun _ => readMem 80 (.abs32 0x1000)) (fun u v =>
      xReady u && (List.range 18).all fun k => decide (v.toNat / 16 ^ k % 16 ≤ 9)) = true ∧
    meets (bytesAt 0x1000 [0x0A] flat) (fun _ => readMem 80 (.abs32 0x1000)) (fun u v =>
      xReady u && !(List.range 18).all fun k => decide (v.toNat / 16 ^ k % 16 ≤ 9)) = true ∧
    flat.fpu.empty 7 = true ∧ (let f : Fpu := { flat.fpu with tw := 0 }; f.empty 7 = false ∧ f.masks.getLsbD 0 = true ∧ ({ f with cw := 0x037E } : Fpu).masks.getLsbD 0 = false) := by
  decide +kernel

/-- A value stored up to the end of the address space, and none: an unmasked invalid operation. -/
theorem witness_X87Stores :
    when flat xReady = true ∧
    ([2, 4, 8, 10].all fun n =>
      let m : MemRef := .abs32 (BitVec.ofNat 32 (2 ^ 32 - n))
      meets flat (fun _ => do probe (memAddrs m n true); memAddrs m n true)
        (fun u _ => xReady u && ((notedMem u 0xD9 2 m).toReal .single).val.isSome) &&
      meets { flat with fpu := { flat.fpu with cw := 0x037E } } (fun _ => probe (memAddrs m n true))
        (fun u _ => xReady u && ((notedMem u 0xD9 2 m).toReal .single).val.isNone)) = true := by
  decide +kernel

theorem witness_X87StackInstructions :
    when flat xReady = true ∧ meets flat (fun _ => free 3) (fun u _ => xReady u) = true ∧
    meets (push80 0 (push80 0 flat)) XMoves.freeC1 (fun u _ => xReady u && !u.fpu.empty 0 && !u.fpu.empty 1) = true ∧
    meets (push80 0 flat) XMoves.freeC1 (fun u _ => xReady u && (u.fpu.empty 0 || u.fpu.empty 1)) = true := by decide +kernel

theorem witness_X87Arithmetic :
    meets flat (fun _ => free 3) (fun u _ => xReady u) = true ∧
    meets flat (fun _ => do let v ← readMem 64 (.abs32 0xFFFFFFF8); return (v, ← free 3)) (fun u _ => xReady u) = true ∧
    meets flat (fun _ => do let w ← free 80; return (w, ← free 3)) (fun u _ => xReady u && u.fpu.masks.getLsbD 3 && u.fpu.masks.getLsbD 4) = true ∧
    meets flat (fun _ => do let c ← freeBit; return (c, ← free 3)) (fun u _ => xReady u) = true := by decide +kernel

theorem witness_X87Comparisons : when flat xReady = true ∧ meets flat (fun _ => readMem 16 (.abs32 0xFFFFFFFE)) (fun u _ => xReady u) = true ∧
    meets flat (fun _ => readMem 64 (.abs32 0x1000)) (fun u _ => xReady u) = true := by decide +kernel

/-- ST(0) just inside 2^63 in magnitude, just outside; and a second normal number below it. -/
theorem witness_X87Transcendentals :
    (let on (l : List Word80) : State := l.foldr push80 flat
     let ok (c : Fpu → Bool) (u : State) : Bool := xReady u && u.fpu.masks == 0x3F && !u.fpu.empty 0 && c u.fpu
     let n : Word80 := 0x3FFE8000000000000000
     when (on [0x403D8000000000000000]) (ok trigArg) = true ∧ when (on [0x403D8000000000000000]) (ok fun f => trigArg f && f.empty 7) = true ∧
     when (on [0x403E8000000000000000]) (ok fun f => extCls (f.st 0) == .normal && !trigArg f) = true ∧
     when (on [n, n]) (ok fun f => !f.empty 1 && extCls (f.st 0) == .normal && extCls (f.st 1) == .normal) = true ∧
     when (on [n]) (ok fun f => extCls (f.st 0) == .normal && decide (extExp (f.st 0) < 16383)) = true ∧
     when (on [n, n]) (ok fun f => !f.empty 1 && extCls (f.st 0) == .normal && extCls (f.st 1) == .normal && !extNeg (f.st 0)) = true ∧
     when (on [0x3FFF8000000000000000, n]) (ok fun f => !f.empty 1 && extCls (f.st 0) == .normal && extCls (f.st 1) == .normal &&
       !extNeg (f.st 0)) = true ∧
     when (on [0x3FFC8000000000000000, n]) (ok fun f => !f.empty 1 && extCls (f.st 0) == .normal && extCls (f.st 1) == .normal &&
       decide (extExp (f.st 0) < 16383 - 2)) = true) := by decide +kernel

theorem witness_X87StateImages :
    (let envBytes (u : State) : Nat := if u.os32 then 28 else 14
     let usable (u : State) : Bool := xPresent u && u.cr4.getLsbD 9
     when flat xPresent = true ∧ meets flat (fun _ => do let c ← free 3; return (c, ← freeBit)) (fun u _ => xPresent u) = true ∧
     meets flat (fun _ => readMem 16 (.abs32 0x1000)) (fun u _ => xReady u) = true ∧ meets flat (fun _ => memAddrs (.abs32 0x1000) 2 true) (fun u _ => xPresent u) = true ∧
     meets op16 (fun u => do let as ← memAddrs (.abs32 0x1000) (envBytes u) true; return (as, ← free 224)) (fun u _ => xPresent u) = true ∧
     meets flat (fun u => do return (← readMem (8 * envBytes u) (.abs32 0x1000)).toNat) (fun u _ => xReady u) = true ∧
     meets flat (fun u => do let as ← memAddrs (.abs32 0x1000) (envBytes u + 80) true; return (as, ← free 224)) (fun u _ => xPresent u) = true ∧
     meets flat (fun u => do return (← readMem (8 * (envBytes u + 80)) (.abs32 0x1000)).toNat) (fun u _ => xReady u) = true ∧
     let at_ : MemRef := .abs32 0xFFFFFE00
     let aligned (m : MemRef) (u : State) : Bool := ((u.seg (u.memSeg m)).base + u.ea m).toNat % 16 == 0
     meets flat (fun u => do
       if !aligned at_ u then raiseGP 0
       let as ← memAddrs at_ 512 true
       return (as, ← free 4096)) (fun u _ => usable u) = true ∧
     when flat (fun u => usable u && !aligned (.abs32 0x1008) u) = true ∧
     (let read (u : State) : M Nat := do
        if !aligned at_ u then raiseGP 0
        return (← readMem 4096 at_).toNat
      meets flat read (fun u v => usable u && decide (v = 0)) = true ∧
      meets (bytesAt 0xFFFFFE1A [1] flat) read (fun u v => usable u && decide (v = 2 ^ 208)) = true ∧
      BitVec.ofNat 32 (0 / 2 ^ 192) = 0#32 ∧ BitVec.ofNat 32 (2 ^ 208 / 2 ^ 192) = 0x10000#32)) := by decide +kernel

/-- What FXRSTOR asks of the MXCSR of those two images. -/
theorem witness_X87StateImages_mask : (0#32 &&& ~~~Config.mxcsrMask == 0) = true ∧ (0x10000#32 &&& ~~~Config.mxcsrMask == 0) = false :=
  ⟨by simp, mxcsr_mask.2⟩

theorem witness_ExactArithmetic :
    (let x : Exact := { neg := false, mant := 2 ^ 64 - 1, exp := 0 }
     x.sticky = false ∧ (Exact.add x x).isSome = true ∧ (Exact.add x { x with neg := true }).isNone = true ∧ x.mant ≠ 0 ∧ x.neg = false ∧ x.mant < 2 ^ 64) ∧
    ([0, 1, 0x00800000, 0x7F800000, 0x7F800001, 0x7FC00000].map (fpCls .single) = [.zero, .denormal, .normal, .inf, .snan, .qnan]) ∧
    ([0, 1, 0x00018000000000000000, 0x7FFF8000000000000000].map extCls = [.zero, .denormal, .normal, .inf]) := by
  decide +kernel

/-- 3/2 and, with a rest, a number just above 2^64 can be rounded; 3/2 to the nearest integer, and 1 to a place of single
and to that of its denormals. -/
theorem witness_RoundingAndOrder :
    (Roundable 24 { neg := false, mant := 3, exp := -1 } (3 / 2) ∧
     Roundable 64 { neg := true, mant := 2 ^ 64, exp := 0, sticky := true } (2 ^ 64 + 1 / 2)) ∧
    RoundsTo 0 false 0 (3 / 2) { q := 2, inexact := true, up := true } ∧
    ((2 : ℝ) ^ (0 : Int) ≤ 1 ∧ (1 : ℝ) < 2 ^ ((0 : Int) + 1)) ∧
    RoundsTo 1 true (0 - 23) 1 { q := 2 ^ 23, inexact := false, up := false } ∧
    RoundsTo 1 true (1 - 127 - 23) 1 { q := 2 ^ 149, inexact := false, up := false } := by
  norm_num [Roundable, StandsFor, RoundsTo]
  decide

/-- Operands of FXTRACT, FRNDINT and the remainders: 1, and the two powers of two whose exponents differ from its own by 63 and
by 64. -/
theorem witness_X87Arithmetic_numbers :
    (let one : Word80 := 0x3FFF8000000000000000
     let f : Fpu := (push80 one flat).fpu
     f.empty 0 = false ∧ f.empty 7 = true ∧ (f.arg 0).den = false ∧ (f.arg 1).empty = true ∧
     ([one, 0x403E8000000000000000, 0x403F8000000000000000].all fun v => extCls v == .normal) = true ∧
     (extNumber one = { neg := false, mant := 2 ^ 63, exp := -63 }) ∧
     (extNumber 0x403E8000000000000000 = { neg := false, mant := 2 ^ 63, exp := 0 }) ∧
     (extNumber 0x403F8000000000000000 = { neg := false, mant := 2 ^ 63, exp := 1 })) ∧
    StandsFor { neg := false, mant := 2 ^ 63, exp := -63 } 1 ∧ ((2 : ℝ) ^ (0 : Int) ≤ 1 ∧ (1 : ℝ) < 2 ^ ((0 : Int) + 1)) ∧
    StandsFor { neg := false, mant := 2 ^ 63, exp := 0 } (2 ^ 63) ∧ StandsFor { neg := false, mant := 2 ^ 63, exp := 1 } (2 ^ 64) := by
  refine ⟨by decide +kernel, ?_⟩
  norm_num [StandsFor]

/-- R926: -infinity against 1; 1 against itself; an ordered comparison with a quiet NaN, masked and not, and an unordered one; an
unmasked denormal operand; an empty register. -/
theorem test_comparisons :
    (let f : Fpu := flat.fpu
     let bare : Fpu := { f with cw := 0x037C }
     let codes (c3 c2 c0 : Bool) : Option Codes := some { c3, c2, c0 }
     let one := argInt 1
     let nan := argFp .single 0x7FC00000
     f.compared true (argFp .single 0xFF800000) one = { codes := codes false false true, flags := 0, done := true } ∧
     f.compared true one one = { codes := codes true false false, flags := 0, done := true } ∧
     f.compared true one nan = { codes := codes true true true, flags := 1, done := true } ∧
     bare.compared true one nan = { codes := codes true true true, flags := 1, done := false } ∧
     bare.compared false one nan = { codes := codes true true true, flags := 0, done := true } ∧
     bare.compared true one (argFp .single 1) = { codes := none, flags := 2, done := false } ∧
     f.compared true (f.arg 0) one = { codes := codes true true true, flags := 0x41, done := true }) := by decide +kernel

/-- R1362: without SSE2 the 64-bit form runs. -/
theorem test_forms_without_sse2 : pkForm false (.xmm 1 (.reg 2)) = .mm 1 (.reg 2) ∧ shiftForm false (.immXmm 1 2) = .immMm 1 2 ∧
    movdForm false (.toXmm 1 (.reg 2)) = .toMm 1 (.reg 2) ∧ maskForm false (.xmm 1 2) = .mm 1 2 := by decide

/-- R1149, the bound by hand: 1/2 times 1 - 3/2^13 and 1 + 3/2^13 are 3EFFE800H and 3F000C00H. -/
theorem test_rcp_bound :
    let close := rcpClose (fpExact .single 0x40000000)
    close 0x3EFFE800 = true ∧ close 0x3EFFE7FF = false ∧ close 0x3F000C00 = true ∧ close 0x3F000C01 = false ∧
    close 0xBF000000 = false ∧ close 0x7FC00000 = false := by decide +kernel

theorem witness_ElementOperations :
    (16 * 7 < 128 ∧ 8 * 7 < 64 ∧ 2 * 64 ≤ 128 ∧ (16 : Nat) = 2 * 8) ∧
    (let f : Fmt := .single
     sNan f 0x7FC00000 = true ∧ sNan f 0x7F800000 = false ∧ sNan f 0x3F800000 = false ∧ sVal 0x1F80 f 0x7F800000 = .inf false ∧ sVal 0x1F80 f 0xFF800000 = .inf true ∧
     sVal 0x1F80 f 0x80000000 = .zero true ∧ (match sVal 0x1F80 f 0x3F800000 with | .fin u => !u.neg | _ => false) = true ∧
     (match sVal 0x1F80 f 0xBF800000 with | .fin u => u.neg | _ => false) = true ∧
     (match sVal 0x1F80 f 0x3F800000 with
      | .fin u => (Exact.add u u).isSome && (Exact.add u { u with neg := !u.neg }).isNone
          && (Exact.add u { u with neg := !u.neg, exp := u.exp + 1 }).isSome
      | _ => false) = true ∧
     (fpCls f 0x3F800000 = .normal ∧ fpNeg f 0x3F800000 = false) ∧ fpCls f 0xFF7FFFFF = .normal ∧ fpNeg f 0xFF7FFFFF = true) := by
  decide +kernel

/-- Sources and readiness of the packed instructions, register and memory, the last 16 bytes of the address space. -/
def packed : Bool :=
  meets flat (fun _ => readMmRm (.reg 7)) (fun u _ => xReady u) && meets flat (fun _ => readMmRm (.mem (.abs32 0xFFFFFFF8))) (fun u _ => xReady u) &&
  meets flat (fun _ => readX (.reg 7)) (fun u _ => vReady u) && meets flat (fun _ => readX (.mem lastLine)) (fun u _ => vReady u)

theorem witness_PackedArithmetic : packed = true := by decide +kernel

theorem witness_PackedShapes : packed = true ∧ meets flat (fun _ => readMem 32 lastWord) (fun u _ => xReady u) = true ∧ when flat xReady = true ∧ when flat vReady = true ∧
    meets flat (fun _ => readRm .w (.mem (.abs32 0xFFFFFFFE))) (fun u _ => xReady u && vReady u) = true := by decide +kernel

/-- The 16-byte moves, aligned and at an odd address, and with alignment checking on. -/
def moves16 : Bool :=
  meets flat (fun _ => do let as ← alignedAddrs lastLine false; readAt 128 as) (fun u _ => vReady u) && meets flat (fun _ => alignedAddrs lastLine true) (fun u _ => vReady u) &&
  meets flat (fun _ => do let as ← looseAddrs (.abs32 0x1001) false; readAt 128 as) (fun u _ => vReady u) && meets flat (fun _ => looseAddrs (.abs32 0xFFFFFFF0) true) (fun u _ => vReady u)

theorem witness_PackedMovesAndHints : packed = true ∧ moves16 = true ∧ when flat xReady = true ∧ when flat bothReady = true ∧
    meets flat (fun _ => readRm .d (.mem lastWord)) (fun u _ => xReady u && vReady u) = true ∧ meets flat (fun _ => locate .d (.mem lastWord) true) (fun u _ => xReady u && vReady u) = true ∧
    meets flat (fun _ => memAddrs (.abs32 0xFFFFFFF8) 8 true) (fun u _ => xReady u && vReady u) = true ∧ meets flat (fun _ => readMem 64 (.abs32 0xFFFFFFF8)) (fun u _ => vReady u) = true ∧
    meets (regs [(7, 0x1000)] (withMm 0 0x80 flat)) (fun u => maskSlots (u.dataSeg .ds) (u.reg32 rDI) (lanes 8 (mm u 0)) (lanes 8 (mm u 1)) 0) (fun u l => xReady u && l.length == 1) = true ∧
    meets (regs [(7, 0xFFFFFFF0)] (withX 0 (-1) flat)) (fun u => maskSlots (u.dataSeg .ds) (u.reg32 rDI) (lanes 8 (xmm u 0)) (lanes 8 (xmm u 1)) 0)
      (fun u l => vReady u && l.length == 16) = true ∧
    meets flat (fun _ => memAddrs lastWord 4 true) always = true ∧ meets flat (fun _ => memAddrs (.abs32 0xFFFFFFFF) 1 false) always = true := by decide +kernel

theorem witness_VectorMoves_moves : moves16 = true ∧ packed = true ∧ when flat vReady = true ∧
    meets flat (fun _ => readMem 32 lastWord) (fun u _ => vReady u) = true ∧ meets flat (fun _ => readMem 64 (.abs32 0xFFFFFFF8)) (fun u _ => vReady u) = true ∧
    meets flat (fun _ => memAddrs lastWord 4 true) (fun u _ => vReady u) = true ∧ meets flat (fun _ => memAddrs (.abs32 0xFFFFFFF8) 8 true) (fun u _ => vReady u) = true ∧
    meets flat (fun _ => readXmmRm 64 (.mem (.abs32 0xFFFFFFF8))) (fun u _ => vReady u) = true ∧
    meets flat (fun _ => readMem 128 (.abs32 0xFFFFFFF0)) (fun u _ => vReady u) = true := by decide +kernel

/-- LDMXCSR with the reset value and with a bit that is always reserved. -/
theorem witness_VectorMoves :
    meets (bytesAt 0x1000 [0x80, 0x1F] flat) (fun _ => readMem 32 (.abs32 0x1000)) (fun u v => vReady u && v &&& ~~~Config.mxcsrMask == 0) = true ∧
    meets (bytesAt 0x1000 [0, 0, 1] flat) (fun _ => readMem 32 (.abs32 0x1000)) (fun u v => vReady u && v &&& ~~~Config.mxcsrMask != 0) = true := by
  constructor
  · exact meets_at (c := 0x1F80#32) (p := fun v => v &&& ~~~Config.mxcsrMask == 0) (by decide +kernel) mxcsr_mask.1
  · exact meets_at (c := 0x10000#32) (p := fun v => v &&& ~~~Config.mxcsrMask != 0) (by decide +kernel) (by rw [bne, mxcsr_mask.2]; rfl)

theorem witness_VectorBitwiseAndShuffles : packed = true ∧ meets flat (fun _ => readXmmRm 32 (.mem lastWord)) (fun u _ => vReady u) = true := by decide +kernel

/-- The premises of `Computes`: no unmasked exception, and one. -/
def computes {α : Type} (s : State) (access : State → M α) (ready : State → Bool) (outs : State → α → List SOut) : Bool :=
  meets s access (fun u a => ready u && (flagsFound u (outs u a) &&& ~~~masksOf u == 0))
def raisesXm {α : Type} (s : State) (access : State → M α) (ready : State → Bool) (outs : State → α → List SOut) : Bool :=
  meets s access (fun u a => ready u && (flagsFound u (outs u a) &&& ~~~masksOf u != 0))

/-- 1.0 + 1.0 masked; with ZM clear 1.0 / 0.0 by the spec's K25; and overflow of a scalar with OM clear. -/
theorem witness_VectorArithmetic :
    (let ones : Word128 := 0x3F8000003F8000003F8000003F800000
     let outs (op : SOp) (u : State) (b : Word128) : List SOut := List.zipWith (op u.mxcsr .single) (elems 32 4 (xmm u 0)) (elems 32 4 b)
     computes (withX ones ones flat) (fun _ => readX (.reg 1)) vReady (outs sAdd) = true ∧
     raisesXm { withX ones 0 flat with mxcsr := 0x1D80 } (fun _ => readX (.reg 1)) vReady (outs sDiv) = true ∧
     raisesXm { withX 0x7F7FFFFF 0x7F7FFFFF flat with mxcsr := 0x1B80 } (fun _ => readXmmRm 32 (.reg 1)) vReady
       (fun u b => [sAdd u.mxcsr .single (lane 32 (xmm u 0) 0).toNat b.toNat]) = true ∧
     computes flat (fun _ => readXmmRm 64 (.mem (.abs32 0xFFFFFFF8))) vReady (fun u b => [sSqrt u.mxcsr .double (lane 64 (xmm u 0) 0).toNat b.toNat]) = true ∧
     computes (withX 0 0 flat) (fun _ => readX (.mem lastLine)) vReady (fun u b =>
       let l := elems 64 2 (xmm u 0) ++ elems 64 2 b
       (List.range 2).map fun j => sAdd u.mxcsr .double (l.getD (2 * j) 0) (l.getD (2 * j + 1) 0)) = true) ∧
    sNan .single 0x7F800001 = true ∧ sNan .double 0x7FF0000000000000 = false ∧ sNan .single 0x80000000 = false := by decide +kernel

theorem witness_VectorComparisonsAndConversions :
    (let qnan : State := withX 0x7FC00000 0 flat
     let cmp (u : State) (b : Word32) : List SOut := [{ pre := sCmpFlags u.mxcsr .single false (lane 32 (xmm u 0) 0).toNat b.toNat, post := 0, val := 0 }]
     computes qnan (fun _ => readXmmRm 32 (.reg 1)) vReady cmp = true ∧ raisesXm { qnan with mxcsr := 0x1F00 } (fun _ => readXmmRm 32 (.reg 1)) vReady cmp = true ∧
     computes flat (fun _ => readX (.mem lastLine)) vReady (fun u b => List.zipWith (sCmp 7 u.mxcsr .double) (elems 64 2 (xmm u 0)) (elems 64 2 b)) = true ∧
     (let outs (u : State) (v : Word64) : List SOut := (elems 32 2 v).map fun n => sOfInt u.mxcsr .single (BitVec.ofNat 32 n)
      computes flat nothing bothReady (fun u _ => outs u (mm u 7)) = true ∧ computes flat (fun _ => readMem 64 (.abs32 0xFFFFFFF8)) vReady outs = true ∧
      raisesXm { bytesAt 0x1000 [1, 0, 0, 1] flat with mxcsr := 0xF80 } (fun _ => readMem 64 (.abs32 0x1000)) vReady outs = true) ∧
     (let outs (u : State) (v : Word64) : List SOut := (elems 32 2 v).map (sToInt u.mxcsr (rcOf u) .single)
      computes flat (fun _ => readXmmRm 64 (.reg 1)) bothReady outs = true ∧ raisesXm { qnan with mxcsr := 0x1F00 } (fun _ => readXmmRm 64 (.reg 0)) bothReady outs = true) ∧
     computes flat (fun _ => readRm .d (.mem lastWord)) vReady (fun u v => [sOfInt u.mxcsr .double v]) = true ∧
     (let outs (u : State) (v : Word32) : List SOut := [sToInt u.mxcsr (chop u) .single v.toNat]
      computes flat (fun _ => readXmmRm 32 (.mem lastWord)) vReady outs = true ∧ raisesXm { qnan with mxcsr := 0x1F00 } (fun _ => readXmmRm 32 (.reg 0)) vReady outs = true) ∧
     computes flat (fun _ => readXmmRm 64 (.reg 0)) vReady (fun u v => [sConvert u.mxcsr .double .single v.toNat]) = true ∧
     computes flat (fun _ => readX (.reg 0)) vReady (fun u v => (elems 32 4 v).map (sToInt u.mxcsr (rcOf u) .single)) = true) ∧
    sNan .double 0xFFF0000000000001 = true ∧ sNan .single 0x00000001 = false := by decide +kernel

/-- The last vector, with SP at its lowest; a table one byte shorter; SP = 1. -/
theorem witness_RealModeDelivery :
    (let s := regs [(4, 6)] real
     let table (limit : Word16) : State := { s with idtr := { base := 0, limit } }
     s.pe = false ∧ s.paging = false ∧ 4 * 255 + 3 ≤ (table 0x3FF).idtr.limit.toNat ∧ (table 0x3FE).idtr.limit.toNat < 4 * 255 + 3 ∧
     (∀ k, k < 3 → s.inLimit s.ss (slotOff s.ss.db s.esp 2 k) 2 = true ∧ stackBelow s.ss.db s.esp (2 * k) ≠ 1) ∧
     spIsOne.stackOff spIsOne.esp = 1) := by decide +kernel

/-- An interrupt gate for vector 13 to 0008H, at level 0 and from user mode with a stack in the TSS. -/
def gated : State := { bytesAt 0x3068 [0, 0x50, 8, 0, 0, 0x8E, 0, 0] (regs [(4, 0x1000)] tables) with idtr := { base := 0x3000, limit := 0x6F } }
def gatedUser : State :=
  { bytesAt 0x4004 [0, 0x10, 0, 0, 0x10] gated with
    cpl := 3, cs := { flatSeg 0x33 11 with dpl := 3 }, ss := { flatSeg 0x3B 3 with dpl := 3 }
    tr := { flatSeg 0x20 11 with base := 0x4000, limit := 9 } }
def gate13 : Word64 := 0x00008E0000085000
def code8 : Word64 := 0x00CF9B000000FFFF

theorem gate_open (s : State) (h : s = gated ∨ s = gatedUser) : GateOpen { vector := 13, err := some 0 } s gate13 code8 := by
  rcases h with rfl | rfl
  all_goals exact
    { protectedMode := by decide +kernel, unpaged := by decide +kernel, notVirtual := by decide +kernel, inside := by decide +kernel
      gate := by decide +kernel, kind := by decide +kernel, allowed := by intro h; exact absurd h (by decide)
      code := by refine ⟨by decide +kernel, 0x2008, by decide +kernel, by decide +kernel⟩
      target := by decide +kernel }

theorem witness_ProtectedModeDelivery :
    GateOpen { vector := 13, err := some 0 } gated gate13 code8 ∧ GateOpen { vector := 13, err := some 0 } gatedUser gate13 code8 ∧
    ((segOfDesc (gateSel gate13) code8).dpl = gated.cpl ∧ gated.alignOn = false ∧
     ∀ k, k < 4 → gated.ss.limitOk (slotOff gated.ss.db gated.esp 4 k) 4 = true) ∧
    (let s : State := flags [18] { regs [(4, 0x1002)] gatedUser with cr0 := 0x40033 }
     s.alignOn = true ∧ (s.ss.base + slotOff s.ss.db s.esp 4 0).toNat % 4 ≠ 0 ∧
     ∀ k, k < 4 → s.ss.limitOk (slotOff s.ss.db s.esp 4 k) 4 = true) ∧
    (let s := gatedUser
     let c := segOfDesc (gateSel gate13) code8
     let ss := segOfDesc 0x10 0x00CF93000000FFFF
     c.conforming = false ∧ c.dpl < s.cpl ∧ s.tr.typ ≠ 1 ∧ s.tr.typ ≠ 3 ∧ 8 * c.dpl.toNat + 9 ≤ s.tr.limit.toNat ∧
     0x1000 = BitVec.ofNat 32 (readLinear s (s.tr.base + BitVec.ofNat 32 (8 * c.dpl.toNat + 4)) 4) ∧
     0x10 = BitVec.ofNat 16 (readLinear s (s.tr.base + BitVec.ofNat 32 (8 * c.dpl.toNat + 8)) 2) ∧ isNull 0x10 = false ∧
     s.descAddr 0x10 = some 0x2010 ∧ 0x00CF93000000FFFF = BitVec.ofNat 64 (readLinear s 0x2010 8) ∧ selRpl 0x10 = c.dpl ∧ ss.dpl = c.dpl ∧
     ss.writable = true ∧ ss.p = true ∧ (0x00CF93000000FFFF : Word64).getLsbD 40 = true ∧ ∀ k, k < 6 → ss.limitOk (slotOff ss.db 0x1000 4 k) 4 = true) := by
  exact ⟨gate_open _ (.inl rfl), gate_open _ (.inr rfl), by decide +kernel, by decide +kernel, by decide +kernel⟩

/-- What a delivery raises. -/
def nested (e : Event) (s : State) : Option Event :=
  match deliver e s.eip (e.note s) with
  | .error (.event x) _ => some x
  | _ => none

/-- Vector 13 just beyond a limit of 6EH; an entry of zeros; a software interrupt to a gate of level 0 from user mode; gates not
present, with a null selector, with one beyond the GDT. The nested faults: contributory after contributory, benign. -/
theorem witness_DeliveryFaults :
    (let typ (s : State) : Nat := readLinear s 0x3068 8 / 2 ^ 40 % 32
     let gate (bs : List Byte) : State := bytesAt 0x3068 bs gated
     gated.pe = true ∧ gated.flag fVM = false ∧ gated.paging = false ∧
     ({ gated with idtr := { base := 0x3000, limit := 0x6E } } : State).idtr.limit.toNat < 8 * 13 + 7 ∧
     typ (gate [0, 0, 0, 0, 0, 0]) = 0 ∧ typ gated = 14 ∧ readLinear gatedUser 0x3068 8 / 2 ^ 45 % 4 < gatedUser.cpl.toNat ∧
     (BitVec.ofNat 64 (readLinear (gate [0, 0, 8, 0, 0, 0x0E]) 0x3068 8) : Word64).getLsbD 47 = false ∧
     isNull (gateSel (BitVec.ofNat 64 (readLinear (gate [0, 0, 3, 0, 0, 0x8E]) 0x3068 8))) = true ∧ gated.descAddr 0x58 = none ∧
     nested { vector := 13, err := some 0 } (gate [0, 0, 0, 0, 0, 0]) = some { vector := 13, err := some 0x6B } ∧
     nested { vector := 8, kind := .abort, err := some 0 } gated = some { vector := 13, err := some 0x43 } ∧
     nested { vector := 14, err := some 0 } gated = some { vector := 13, err := some 0x73 } ∧
     nested { vector := 1, kind := .trap } gated = some { vector := 13, err := some 0x0B } ∧
     (match deliver { vector := 3 } 0 { spIsOne with idtr := { base := 0, limit := 0xF } } with
       | .error .shutdown _ => true
       | _ => false) = true) := by decide +kernel

/-- The target of the gate: a data segment, a level too low, not present, and one byte too short; a stack with room for all
slots but the last. -/
theorem witness_DeliveryFaults_target :
    (let e : Event := { vector := 13, err := some 0 }
     let code (s : State) : SegReg := segOfDesc 8 (BitVec.ofNat 64 (readLinear s 0x2008 8))
     let rights (b : Byte) : State := bytesAt 0x200D [b] gated
     let short (s : State) : State := bytesAt 0x200E [0x40] (bytesAt 0x2008 [0xFF, 0x4F] s)
     let stack (v : Word32) : State := regs [(4, v)] gated
     let room (s : State) (k : Nat) : Bool := s.ss.limitOk (slotOff s.ss.db s.esp 4 k) 4
     gated.descAddr 8 = some 0x2008 ∧ gateSel gate13 = 8 ∧
     (code (rights 0x93)).isCode = false ∧ nested e (rights 0x93) = some { vector := 13, err := some 9 } ∧
     (rights 0xFB).cpl < (code (rights 0xFB)).dpl ∧ nested e (rights 0xFB) = some { vector := 13, err := some 9 } ∧
     (code (rights 0x1B)).p = false ∧ nested e (rights 0x1B) = some { vector := 11, err := some 9 } ∧
     (code (short gated)).limit < gateOff gate13 ∧ nested e (short gated) = some { vector := 13, err := some 0 } ∧
     ((code gated).isCode && (code gated).p) = true ∧ (code gated).dpl = gated.cpl ∧
     (List.range 4).all (room (stack 0x10)) = true ∧ nested e (stack 0x10) = none ∧
     room (stack 0xF) 3 = false ∧ nested e (stack 0xF) = some { vector := 12, err := some 0 } ∧
     nested e (short (stack 0xF)) = some { vector := 12, err := some 0 }) := by decide +kernel

/-- An inner level: a TSS one byte too short and a 16-bit one; a null stack selector, one beyond the GDT, one of the wrong level, one
not present, one without room for the last slot; a target one byte too short. -/
theorem witness_DeliveryFaults_inner :
    (let e : Event := { vector := 13, err := some 0 }
     let ss (sel : Byte) : State := bytesAt 0x4008 [sel] gatedUser
     let tr (limit : Word32) : State := { gatedUser with tr := { gatedUser.tr with limit } }
     let absent : State := bytesAt 0x2015 [0x13] gatedUser
     let low (b : Byte) : State := bytesAt 0x4004 [b, 0] gatedUser
     gatedUser.tr.typ = 11 ∧ 8 * 0 + 4 + 5 ≤ gatedUser.tr.limit.toNat ∧ (tr 8).tr.limit.toNat < 8 * 0 + 4 + 5 ∧
     nested e (tr 8) = some { vector := 10, err := some 0x21 } ∧
     isNull 3 = true ∧ nested e (ss 3) = some { vector := 10, err := some 1 } ∧
     gatedUser.descAddr 0x58 = none ∧ nested e (ss 0x58) = some { vector := 10, err := some 0x59 } ∧
     selRpl 0x11 = 1 ∧ nested e (ss 0x11) = some { vector := 10, err := some 0x11 } ∧
     (segOfDesc 0x10 (BitVec.ofNat 64 (readLinear absent 0x2010 8))).p = false ∧ nested e absent = some { vector := 12, err := some 0x11 } ∧
     nested e (low 0x18) = none ∧ nested e (low 0x17) = some { vector := 12, err := some 0x11 } ∧
     nested e (bytesAt 0x200E [0x40] (bytesAt 0x2008 [0xFF, 0x4F] gatedUser)) = some { vector := 13, err := some 0 }) ∧
    (match deliver { vector := 13, err := some 0 } 0 { gatedUser with tr := { gatedUser.tr with typ := 3 } } with
      | .error (.refused .tss16) _ => true
      | _ => false) = true := by decide +kernel

/-- Two doublewords across the end of the address space; the first and the last word of ISR, and the lowest bit and
the highest one in service. -/
theorem witness_SegmentAndAlignmentChecks_memory :
    (flat.canonical ∧ ordinary 0xFFFFFFFF ∧ ordinary 0 ∧ ordinary 0xFEDFFFFF ∧ ordinary 0xFEF00000) ∧
    (linearBytes 0xFFFFFFFE 4 = [0xFFFFFFFE, 0xFFFFFFFF, 0, 1] ∧ [0xFFFFFFFE, 0xFFFFFFFF, 0, 1].Nodup ∧ flat.paging = false) ∧
    (let a : State := { flat with apic := { flat.apic with isr := 1#256 <<< 255 ||| 1#256 <<< 16 } }
     flat.apic.isr = 0 ∧ physRead8 a 0xFEE00173 = 0x80 ∧ physRead8 a 0xFEE00102 = 1 ∧ a.apic.isr.getLsbD 255 = true ∧
     (physWrite8 a 0xFEE000B0 0).apic.isr = 1#256 <<< 16) := by
  refine ⟨⟨by unfold State.canonical; decide +kernel, ?_, ?_, ?_, ?_⟩, by decide +kernel, by decide +kernel⟩
  all_goals exact ⟨by decide +kernel, by decide +kernel⟩

theorem witness_SegmentAndAlignmentChecks :
    (let s : State := { flat with cpl := 3, cr0 := 0x40033, eflags := 0x40002 }
     (nullSeg 0).p = false ∧ flat.ds.p = true ∧
     (match linear .ds 2 4 false s with | .ok la t => la == 2 && decide (t = s) | _ => false) = true ∧
     (match translateRange 2 4 false (s.cpl == 3) s with | .ok _ _ => true | _ => false) = true ∧
     (2 : Nat) % 4 ≠ 0 ∧ s.cr0.getLsbD 18 = true ∧ s.eflags.getLsbD 18 = true ∧ s.cpl = 3 ∧
     (match linear .ds 4 10 false s with | .ok la _ => la.toNat % 8 != 0 | _ => false) = true ∧
     (0xFFC + 4 - 1 ≤ 0xFFF) ∧ ¬(0xFFD + 4 - 1 ≤ 0xFFF) ∧ real.pe = false ∧ real.inSmm = false ∧
     0xFFFE + 2 ≤ 2 ^ 16 ∧ ¬(0xFFFF + 2 ≤ 2 ^ 16)) := by decide +kernel

/-- The last 4-MByte page; its entry with a reserved bit; PAE paging of the same address; a cached translation of P6. -/
def paged4M (e : List Byte) : State := bytesAt 0x10FFC e { flat with cr0 := 0x80000033, cr3 := 0x10000, cr4 := 0x610 }
def pagedPae (e : List Byte) : State :=
  bytesAt 0x10018 [0x01, 0x20, 1, 0] (bytesAt 0x12FF8 e { flat with cr0 := 0x80000033, cr3 := 0x10000, cr4 := 0x620 })
def cachedPage : TlbEntry :=
  { page := 0x401, frame := 0x25, size := .k4, user := true, writable := true, dirty := false, global := false }

theorem witness_PageTranslation_formats :
    (match found32 (paged4M [0xE7, 0, 0xC0, 0xFF]) 0xFFFFFFFF with | .page [_] pa => pa == 0xFFFFFFFF | _ => false) = true ∧
    (match found32 (paged4M [0xE7, 0x20, 0xC0, 0xFF]) 0xFFFFFFFF with | .reserved => true | _ => false) = true ∧
    (match foundPae (pagedPae [0xE7, 0, 0xE0, 0xFF, 0xF]) 0x12001 0xFFFFFFFF with | .page [_] pa => pa == 0xFFFFFFFFF | _ => false) = true ∧
    (match foundPae (pagedPae [0xE7, 0, 0xE0, 0xFF, 0x1F]) 0x12001 0xFFFFFFFF with | .reserved => true | _ => false) = true ∧
    (match foundPae (pagedPae []) 0x12001 0xFFFFFFFF with | .absent => true | _ => false) = true ∧
    pdpteInTable (pagedPae []) 0xFFFFFFFF = 0x12001 ∧ pdpteHeld (pagedPae []) 0xFFFFFFFF = 0x12001 ∧
    (let s : State := bytesAt 0x10004 [0x27] (bytesAt 0x11004 [0x27] { paged with tlb := [cachedPage] })
     (s.tlb.find? fun e => e.page == (0x401234#32).extractLsb' 12 20) = some cachedPage ∧
     (match found32 s 0x401234 with
      | .page es pa => es.length == 2 && pa == 0x25234 && es.all (fun e => e.2.getLsbD 5 && e.2.getLsbD 1 && e.2.getLsbD 2) && !s.pae
      | _ => false) = true) := by decide +kernel

/-- P6's tables: present with and without the user bit, absent. -/
theorem witness_PageTranslation :
    (let s : State := paged
     let pde (s : State) := physRead32 s 0x10004
     let pte (s : State) := physRead32 s 0x11004
     Memory.wf s.mem = true ∧ s.paging = true ∧ s.pae = false ∧ s.pse = false ∧ s.tlb = [] ∧ s.cr3.toNat / 4096 * 4096 + 4 * (0x401234 / 2 ^ 22) = 0x10004 ∧
     (pde s).toNat / 4096 * 4096 + 4 * (0x401234 / 2 ^ 12 % 2 ^ 10) = 0x11004 ∧ (pde s).getLsbD 0 = true ∧ (pte s).getLsbD 0 = true ∧ (pte s).getLsbD 2 = true ∧
     (pte (bytesAt 0x11004 [3] s)).getLsbD 2 = false ∧ (pte (bytesAt 0x11004 [6] s)).getLsbD 0 = false) := by decide +kernel

/-- NOP at the instruction pointer. -/
def atNop : State := bytesAt 0x200 [0x90] flat

theorem quiet_atNop : Quiet atNop := by unfold Quiet; decide +kernel

theorem witness_StepRunsDecoded : Quiet atNop ∧ Reads1 atNop .nop (atNop.addLen 1) := by
  refine ⟨quiet_atNop, .instr ⟨[0x90], atNop, 1, .cons (t := atNop) ?_ (.nil _ _), by decide, by decide +kernel, ?_, rfl⟩ rfl⟩
  · exact of_fetch _ (by decide +kernel)
  · intro k hk
    obtain rfl : k = 0 := by simpa using hk
    decide +kernel
where
  of_fetch (s : State) (h : succeeds (fun b t => decide (b = 0x90 ∧ t = s)) (fetchByte 0 s) = true) :
      fetchByte 0 s = .ok 0x90 s := by
    obtain ⟨b, t, reached, good⟩ := succeeds_iff.mp h
    obtain ⟨rfl, rfl⟩ := of_decide_eq_true good
    exact reached

/-- Events that wait, each alone, in a running processor, and a halted one with none. -/
theorem witness_EventsAtBoundary :
    (let p (q : Pending) : State := { flat with pending := q, eflags := 0x202 }
     let none_ : Pending := .none
     (p { none_ with reset := true }).pending.reset = true ∧ (p none_).pending.reset = false ∧
     ((List.range 4).all fun k => let a := (flat.smbase + BitVec.ofNat 32 (0xFEF8 + k)).toNat; decide (a < smramKey ∧ a < 0xFEE00000)) = true ∧
     ({ flat with activity := .mwait } : State).activity = .mwait ∧ ({ flat with activity := .shutdown } : State).activity = .shutdown ∧
     ({ flat with activity := .waitForSipi } : State).activity = .waitForSipi ∧ (p { none_ with sipi := some 0xFF }).pending.sipi = some 0xFF ∧
     flat.redeliver = none ∧ flat.stiShadow = false ∧ flat.ssShadow = false ∧ flat.activity = .running ∧ flat.flag fVM = false ∧ flat.inSmm = false ∧ flat.traps = 0 ∧
     (p { none_ with smi := true }).smiOpen = true ∧ (p { none_ with init := true }).initOpen = true ∧ (p { none_ with nmi := true }).nmiOpen = true ∧
     (p { none_ with ext := some 32 }).intOpen = true ∧ (p none_).apic.offer = none ∧
     (({ p none_ with apic := { flat.apic with irr := 1 <<< 255 } } : State).apic.offer = some 255) ∧ ({ flat with traps := 0x4000 } : State).traps ≠ 0 ∧
     (let b : State := { flat with dr0 := 0x200, dr7 := 0x401 }; b.codeBreaksBad = false ∧ b.codeBreaks ≠ 0) ∧
     ({ flat with activity := .halted } : State).activity = .halted) ∧
    -- a fixed message's lowest vector and its level-triggered assert; the first doubleword of the window for messages
    (let a : Word32 := BitVec.ofNat 32 0xFEE01000
     a.toNat / 2 ^ 20 = 0xFEE ∧ 0xFEE01000 % 4 = 0 ∧ (0x10 : Word32).toNat % 256 = 16 ∧ (0xC010 : Word32).getLsbD 15 = true ∧
     (0xC010 : Word32).getLsbD 14 = true ∧ (0x8010 : Word32).getLsbD 14 = false) := by decide +kernel

/-- The state an outcome leads to, if it is no stop. -/
def nextOf : Host.Outcome State Fault Refusal → Option State
  | .next t => some t
  | .fault _ | .refused _ => none

theorem witness_MemoryStaysCanonical : atNop.canonical ∧ ∃ t, step atNop = .next t := by
  have runs : (nextOf (step atNop)).isSome = true := by decide +kernel
  refine ⟨by unfold State.canonical; decide +kernel, ?_⟩
  obtain ⟨t, reached⟩ := Option.isSome_iff_exists.mp runs
  exact ⟨t, of_next reached⟩
where
  of_next {o : Host.Outcome State Fault Refusal} {t : State} (h : nextOf o = some t) : o = .next t := by
    rcases o with u | f | r
    · exact congrArg _ (Option.some.inj h)
    · exact nomatch h
    · exact nomatch h

theorem witness_FixedFlagsStay : atNop.flagsFixed ∧ (inSmm flat.toCpu).flagsFixed ∧ ∃ t, step atNop = .next t := by
  refine ⟨⟨by unfold fixedFlags; decide +kernel, ?_⟩, ⟨by unfold fixedFlags; decide +kernel, ?_⟩, witness_MemoryStaysCanonical.2⟩
  · intro d hd; cases hd
  · intro d hd; cases hd; unfold fixedFlags; decide +kernel

theorem witness_DecodeOfEncode :
    (let i : Instr := .sub (.rmImm false true (.mem (.sib 3 7 5 (.d32 0xFFFFFFFF))) (.i32 0xFFFFFFFF))
     i.wf = true ∧ i.fits true true = true ∧ decide (i ∉ ([.repne, .rep, .opSizeOverride] : List Instr)) = true) := by decide +kernel

end
end Sys2Proof.Tests
end

/-! Proofs of the family 00_scope: the rules by which a statement about one instruction follows from a run of its body, then
CPUID, RDTSC and RDPMC (43 R830, R831, R834, R835). -/
section
namespace Sys2Proof.Proofs
open Machine Claims

/-! ## From the run of a body to a statement about its instruction -/

/-- The state an instruction begins in has the memory of the state before it. -/
theorem kept_begin (s : State) : Kept s s.begin [] := fun _ _ _ _ => .inl rfl

/-- An instruction whose body writes neither memory nor what SMM depends on. -/
theorem does_of_body {i : Instr} {lock : Bool} {body : M Unit} {s u : State} (arm : exec i s = runPlain lock body s)
    (allowed : LockOk s lock) (run : body s.begin = .ok () u) (mem : u.mem = s.mem) (smm : u.inSmm = s.inSmm)
    (base : u.smbase = s.smbase) : Does i s u [] :=
  ⟨arm.trans (runPlain_ok allowed run), ((kept_begin s).of_eq mem smm base).done⟩

/-- An instruction that leaves no flag undefined. -/
theorem doesUpTo_of_does {i : Instr} {s u : State} {stored : List Nat} (done : Does i s u stored) (und : List Nat) :
    DoesUpTo und i s u stored :=
  ⟨u.eflags, u.draws, fun _ => rfl, fun _ _ => rfl, done⟩

theorem when_nothing {i : Instr} {lock : Bool} {ok : State → Unit → Bool} {after : State → Unit → State}
    (does : ∀ s, LockOk s lock → ok s.begin () = true → Does i s (after s.begin ()) []) :
    When i lock nothing ok after := by
  intro s a t allowed reached good
  cases reached
  exact doesUpTo_of_does (does s allowed good) []

/-- An instruction that draws one value and then goes by it. -/
theorem when_free {i : Instr} {lock : Bool} {w : Nat} {ok : State → BitVec w → Bool} {after : State → BitVec w → State}
    (does : ∀ s v, LockOk s lock → v = Config.freeBits w s.draws → ok { s.begin with draws := s.draws + 1 } v = true →
      Does i s (after { s.begin with draws := s.draws + 1 } v) []) : When i lock (fun _ => free w) ok after := by
  intro s a t allowed reached good
  cases reached
  exact doesUpTo_of_does (does s _ allowed rfl good) []

theorem whenOpen_nothing {β : Type} {i : Instr} {ok : State → Unit → Bool} {after : State → Unit → β → State}
    (does : ∀ s, LockOk s false → ok s.begin () = true →
      ∃ v, Does i s (after s.begin () v) []) : WhenOpen i nothing ok after := by
  intro s a t allowed reached good
  cases reached
  obtain ⟨v, done⟩ := does s allowed good
  exact ⟨v, (after s.begin () v).draws, doesUpTo_of_does done []⟩

/-- An instruction whose body raises an event before it has accessed anything. -/
theorem traps_nothing {i : Instr} {ok : State → Unit → Bool} {e : Event} {body : State → M Unit}
    (arm : ∀ s, exec i s = runPlain false (body s) s)
    (raised : ∀ s, ok s.begin () = true → body s s.begin = .error (.event e) s.begin) : Traps i nothing ok e := by
  intro s a t allowed reached good
  cases reached
  have unlocked : s.cur.lock = false := by simpa [LockOk] using allowed
  simp [arm, runPlain, runJump, unlocked, raised s good]

/-! ## CPUID (R830, R831) -/

/-- What CPUID leaves when its table answers `row`: the four registers, and the revision deposit (10_state R114). -/
def identified (u : State) (row : Word32 × Word32 × Word32 × Word32) : State :=
  let t := (((u.writeReg .d rAX row.1).writeReg .d rBX row.2.1).writeReg .d rCX row.2.2.1).writeReg .d rDX row.2.2.2
  if u.ucode.loaded then withMsr t fun r => { r with biosSignId := u.ucode.revision ++ r.biosSignId.setWidth 32 } else t

theorem identified_mem (u : State) (row : Word32 × Word32 × Word32 × Word32) : (identified u row).mem = u.mem := by
  unfold identified; split <;> rfl
theorem identified_inSmm (u : State) (row : Word32 × Word32 × Word32 × Word32) : (identified u row).inSmm = u.inSmm := by
  unfold identified; split <;> rfl
theorem identified_smbase (u : State) (row : Word32 × Word32 × Word32 × Word32) :
    (identified u row).smbase = u.smbase := by
  unfold identified; split <;> rfl

/-- CPUID executes at every privilege level, for every function. -/
theorem cpuid_does (s : State) (allowed : LockOk s false) :
    Does .cpuid s (identified s.begin (cpuidTable (s.reg32 rAX))) [] := by
  refine does_of_body rfl allowed ?_ (identified_mem _ _) (identified_inSmm _ _) (identified_smbase _ _)
  have low : s.msr.biosSignId.extractLsb' 0 32 = s.msr.biosSignId.setWidth 32 :=
    (BitVec.setWidth_eq_extractLsb' (by decide)).symm
  cases loaded : s.ucode.loaded <;> simp [identified, State.begin, loaded, low, updateMsr, withMsr]

/-- CPUID of a function of which the table fixes only part: the rest is what the configuration answers. -/
theorem whenOpen_cpuid {β : Type} {ok : State → Unit → Bool} {row : β → Word32 × Word32 × Word32 × Word32}
    (answers : ∀ u : State, ok u () = true → ∃ v, cpuidTable (u.reg32 rAX) = row v) :
    WhenOpen .cpuid nothing ok fun u _ v => identified u (row v) := by
  refine whenOpen_nothing fun s allowed good => ?_
  obtain ⟨v, answered⟩ := answers s.begin good
  exact ⟨v, answered ▸ cpuid_does s allowed⟩

/-- Function 0: the highest basic function and the vendor string. -/
theorem when_cpuid_vendor : When .cpuid false nothing (fun u _ => u.reg32 rAX == 0)
    fun u _ => identified u (5, 0x756E6547, 0x6C65746E, 0x49656E69) := by
  refine when_nothing fun s allowed leaf => ?_
  have table : cpuidTable (s.reg32 rAX) = (5, 0x756E6547, 0x6C65746E, 0x49656E69) :=
    (congrArg cpuidTable (eq_of_beq leaf)).trans rfl
  exact table ▸ cpuid_does s allowed

/-- A word with the feature bits of the parameters (00_scope R9) at their places. -/
def withFeatures (w : Word32) (bits : List (Nat × Bool)) : Word32 := bits.foldl (fun w p => setBit w p.1 p.2) w

/-- Function 1: the signature, and the parameters at their places over what the configuration leaves open. -/
theorem whenOpen_cpuid_features : WhenOpen .cpuid nothing (fun u _ => u.reg32 rAX == 1)
    fun u _ (v : Word32 × Word32 × Word32) => identified u (0x00000F34, v.1,
      withFeatures v.2.1 [(0, Config.hasSse3), (3, Config.hasSse3), (10, Config.hasCnxtId)],
      withFeatures v.2.2 [(24, Config.hasFxsr), (25, Config.hasSse), (26, Config.hasSse2)]) :=
  whenOpen_cpuid fun _ leaf =>
    ⟨(Config.cpuidEbx 1, Config.cpuidEcx 1, Config.cpuidEdx 1 ||| 0x0088A97D),
      (congrArg cpuidTable (eq_of_beq leaf)).trans rfl⟩

/-- The low half of a size word is the size of the block, 2^n bytes. -/
theorem monitorSize_eq (v : Word32) :
    monitorSize v = v.extractLsb' 16 16 ++ BitVec.ofNat 16 (2 ^ Config.monitorLineBits.toNat) := by
  have shifted : (1#16 <<< Config.monitorLineBits.toNat) = BitVec.ofNat 16 (2 ^ Config.monitorLineBits.toNat) := by
    apply BitVec.eq_of_toNat_eq
    simp [Nat.shiftLeft_eq]
  rw [monitorSize, shifted]

/-- What function 5 answers with the open parts v: the smallest and the largest size of the range that MONITOR arms are one
(10_state R176). -/
def monitorRow (v : Word16 × Word16 × Word32 × Word32) : Word32 × Word32 × Word32 × Word32 :=
  let size : Word16 := BitVec.ofNat 16 (2 ^ Config.monitorLineBits.toNat)
  (v.1 ++ size, v.2.1 ++ size, v.2.2.1, v.2.2.2)

theorem cpuidTable_monitor : cpuidTable 5 =
    monitorRow ((Config.cpuidEax 5).extractLsb' 16 16, (Config.cpuidEbx 5).extractLsb' 16 16, Config.cpuidEcx 5,
      Config.cpuidEdx 5) := by
  have table : cpuidTable 5 =
      (monitorSize (Config.cpuidEax 5), monitorSize (Config.cpuidEbx 5), Config.cpuidEcx 5, Config.cpuidEdx 5) := rfl
  rw [table, monitorSize_eq, monitorSize_eq, monitorRow]

theorem whenOpen_cpuid_monitor : WhenOpen .cpuid nothing (fun u _ => u.reg32 rAX == 5)
    fun u _ v => identified u (monitorRow v) :=
  whenOpen_cpuid fun _ leaf => ⟨_, (congrArg cpuidTable (eq_of_beq leaf)).trans cpuidTable_monitor⟩

/-! ## The counters (R834, R835; log 20) -/

/-- A counter of w bits that has moved on by v, and stays at the largest value. -/
def counted {w : Nat} (old v : BitVec w) : BitVec w := BitVec.ofNat w (min (old.toNat + v.toNat) (2 ^ w - 1))

@[simp] theorem run_readTsc (s : State) :
    readTsc s = .ok (counted s.msr.tsc (Config.freeBits 64 s.draws))
      (withMsr { s with draws := s.draws + 1 } fun r => { r with tsc := counted r.tsc (Config.freeBits 64 s.draws) }) := rfl

@[simp] theorem run_readCounter (k : Nat) (s : State) :
    readCounter k s = .ok (counted (s.msr.iqCounter.getD k 0) (Config.freeBits 40 s.draws))
      (withMsr { s with draws := s.draws + 1 } fun r =>
        { r with iqCounter := r.iqCounter.set k (counted (r.iqCounter.getD k 0) (Config.freeBits 40 s.draws)) }) := by
  simp [readCounter, counted, withMsr, nth, setNth, List.getD]

/-- What RDTSC leaves when the counter moves on by v. -/
def tscRead (u : State) (v : Word64) : State :=
  let new := counted u.msr.tsc v
  withMsr ((u.writeReg .d rDX (new.extractLsb' 32 32)).writeReg .d rAX (new.setWidth 32)) fun r => { r with tsc := new }

/-- What RDPMC leaves when counter 12 + k moves on by v. -/
def counterRead (k : Nat) (u : State) (v : BitVec 40) : State :=
  let new := counted (u.msr.iqCounter.getD k 0) v
  let high := if 2 ^ 31 ≤ (u.reg32 rCX).toNat then 0#32 else BitVec.ofNat 32 (new.toNat / 2 ^ 32)
  withMsr ((u.writeReg .d rDX high).writeReg .d rAX (new.setWidth 32)) fun r => { r with iqCounter := r.iqCounter.set k new }

/-- EDX of RDPMC: bit 31 of ECX asks for the low half alone. -/
theorem counterHigh_eq (c : Word32) (v : BitVec 40) :
    (if c.getLsbD 31 then 0#32 else (v.extractLsb' 32 8).setWidth 32) =
      if 2 ^ 31 ≤ c.toNat then 0#32 else BitVec.ofNat 32 (v.toNat / 2 ^ 32) := by
  have top : c.getLsbD 31 = decide (2 ^ 31 ≤ c.toNat) := BitVec.getLsbD_succ_last c
  have rest : (v.extractLsb' 32 8).setWidth 32 = BitVec.ofNat 32 (v.toNat / 2 ^ 32) := by
    apply BitVec.eq_of_toNat_eq
    rw [BitVec.toNat_setWidth, BitVec.extractLsb'_toNat, BitVec.toNat_ofNat, Nat.shiftRight_eq_div_pow]
    omega
  simp only [top, rest, decide_eq_true_eq]

theorem counterNumber_eq (c : Word32) : (c.extractLsb' 0 31).toNat = c.toNat % 2 ^ 31 := by
  rw [BitVec.extractLsb'_toNat, Nat.shiftRight_zero]

/-- A counter that may be read at a privilege level is not closed to it. -/
theorem not_closed {enabled : Bool} {cpl : BitVec 2} (may : (enabled || cpl == 0) = true) : (!enabled && cpl != 0) = false := by
  cases enabled <;> simp_all

/-- RDTSC where CR4.TSD or the privilege level lets it. -/
theorem when_rdtsc : When .rdtsc false (fun _ => free 64) (fun u _ => !u.cr4.getLsbD 2 || u.cpl == 0) tscRead := by
  refine when_free fun s v allowed drawn good => does_of_body rfl allowed ?_ rfl rfl rfl
  have permitted : (s.cr4.getLsbD 2 && s.cpl != 0) = false := by
    simpa only [Bool.not_not] using not_closed (enabled := !s.cr4.getLsbD 2) (cpl := s.cpl) good
  subst drawn
  simp only [permitted, Bool.false_eq_true, if_false, run_bind, run_readTsc, afterwards_ok, run_putReg]
  rfl

/-- RDPMC of a counter that exists, where CR4.PCE or the privilege level lets it. -/
theorem when_rdpmc (k : Nat) : When .rdpmc false (fun _ => free 40)
    (fun u _ => k ≤ 5 && (u.cr4.getLsbD 8 || u.cpl == 0) && (u.reg32 rCX).toNat % 2 ^ 31 == 12 + k) (counterRead k) := by
  refine when_free fun s v allowed drawn good => does_of_body rfl allowed ?_ rfl rfl rfl
  simp only [Bool.and_eq_true, decide_eq_true_eq, beq_iff_eq] at good
  obtain ⟨⟨known, may⟩, selected⟩ := good
  have permitted : (!s.cr4.getLsbD 8 && s.cpl != 0) = false := not_closed may
  have number : ((s.reg32 rCX).extractLsb' 0 31).toNat = 12 + k := (counterNumber_eq _).trans selected
  have inRange : (decide (12 + k < 12) || decide (17 < 12 + k)) = false :=
    Bool.or_eq_false_iff.mpr ⟨decide_eq_false (by omega), decide_eq_false (by omega)⟩
  subst drawn
  simp only [permitted, number, inRange, Bool.false_eq_true, if_false, run_bind, Nat.add_sub_cancel_left, run_readCounter,
    afterwards_ok, run_putReg, counterHigh_eq]
  rfl

/-- RDTSC closed to this privilege level. -/
theorem traps_rdtsc : Traps .rdtsc nothing (fun u _ => u.cr4.getLsbD 2 && u.cpl != 0) { vector := 13, err := some 0 } := by
  refine traps_nothing (fun _ => rfl) fun s good => ?_
  have closed : (s.cr4.getLsbD 2 && s.cpl != 0) = true := good
  simp only [closed, if_true, raiseGP, run_bind, run_raise, afterwards_error]

/-- RDPMC closed to this privilege level, or of a counter that does not exist. -/
theorem traps_rdpmc : Traps .rdpmc nothing
    (fun u _ => (!u.cr4.getLsbD 8 && u.cpl != 0) || decide ((u.reg32 rCX).toNat % 2 ^ 31 < 12)
      || decide (17 < (u.reg32 rCX).toNat % 2 ^ 31)) { vector := 13, err := some 0 } := by
  refine traps_nothing (fun _ => rfl) fun s good => ?_
  rw [Bool.or_assoc] at good
  cases closed : (!s.cr4.getLsbD 8 && s.cpl != 0)
  · have absent : (decide ((s.reg32 rCX).toNat % 2 ^ 31 < 12) || decide (17 < (s.reg32 rCX).toNat % 2 ^ 31)) = true :=
      (Bool.or_eq_true_iff.mp good).resolve_left (ne_true_of_eq_false closed)
    simp only [counterNumber_eq, absent, Bool.false_eq_true, if_false, if_true, raiseGP, run_bind, run_raise,
      afterwards_error]
  · simp only [if_true, raiseGP, run_bind, run_raise, afterwards_error]

/-- Settles O26: each clause is what one instruction does, CPUID's by what the table answers for the function. -/
theorem identificationAndCounters : Obligations.IdentificationAndCounters := by
  unfold Obligations.IdentificationAndCounters
  exact ⟨when_cpuid_vendor, whenOpen_cpuid_features, whenOpen_cpuid_monitor, whenOpen_cpuid fun _ _ => ⟨_, rfl⟩, when_rdtsc,
    traps_rdtsc, when_rdpmc, traps_rdpmc⟩

end Sys2Proof.Proofs
end

/-! Proofs of the family 10_state: what the flag computations of R49 say in exact arithmetic, and the conditions of R52. -/
section
namespace Sys2Proof.Proofs
open Machine

/-! ## The six status flags together (R48, R49) -/

/-- A flag written where nothing but EFLAGS has changed leaves it so. -/
theorem setFlag_onlyEflags {s t : State} {i : Nat} {v : Bool} (only : t = { s with eflags := t.eflags }) :
    t.setFlag i v = { s with eflags := (t.setFlag i v).eflags } := by
  rw [State.setFlag_eflags, State.setFlag, only]

/-- The status flags of a result r, with its own overflow, adjust and carry: the shape additions and subtractions share. -/
def withStatus {w : Nat} (s : State) (overflow adjust carry : Bool) (r : BitVec w) : State :=
  (((s.setFlag fOF overflow).setFlag fAF adjust).resultFlags r).setFlag fCF carry

theorem addFlags_eq {w : Nat} (s : State) (a b : BitVec w) (c : Bool) :
    s.addFlags a b c = withStatus s (addOverflow a b c) (addAdjust a b c) (addCarry a b c) (addSum a b c) := rfl

theorem subFlags_eq {w : Nat} (s : State) (a b : BitVec w) (c : Bool) :
    s.subFlags a b c = withStatus s (subOverflow a b c) (subAdjust a b c) (subBorrow a b c) (subDiff a b c) := rfl

section
variable {w : Nat} (s : State) (overflow adjust carry : Bool) (r : BitVec w)

theorem flag_CF_withStatus : (withStatus s overflow adjust carry r).flag fCF = carry :=
  State.flag_setFlag_same _ _ _ (by decide)

theorem flag_PF_withStatus : (withStatus s overflow adjust carry r).flag fPF = evenParity (r.setWidth 8) := by
  rw [withStatus, State.flag_setFlag_other _ _ _ _ (by decide), State.resultFlags, State.flag_setFlag_same _ _ _ (by decide)]

theorem flag_resultFlags_other {i : Nat} (other : i ∉ [fZF, fSF, fPF]) : (s.resultFlags r).flag i = s.flag i := by
  simp only [List.mem_cons, List.not_mem_nil, or_false, not_or] at other
  obtain ⟨zf, sf, pf⟩ := other
  rw [State.resultFlags, State.flag_setFlag_other _ _ _ _ pf, State.flag_setFlag_other _ _ _ _ sf,
    State.flag_setFlag_other _ _ _ _ zf]

theorem flag_AF_withStatus : (withStatus s overflow adjust carry r).flag fAF = adjust := by
  rw [withStatus, State.flag_setFlag_other _ _ _ _ (by decide), flag_resultFlags_other _ _ (by decide),
    State.flag_setFlag_same _ _ _ (by decide)]

theorem flag_ZF_withStatus : (withStatus s overflow adjust carry r).flag fZF = (r == 0) := by
  rw [withStatus, State.flag_setFlag_other _ _ _ _ (by decide), State.resultFlags,
    State.flag_setFlag_other _ _ _ _ (by decide), State.flag_setFlag_other _ _ _ _ (by decide),
    State.flag_setFlag_same _ _ _ (by decide)]

theorem flag_SF_withStatus : (withStatus s overflow adjust carry r).flag fSF = r.msb := by
  rw [withStatus, State.flag_setFlag_other _ _ _ _ (by decide), State.resultFlags,
    State.flag_setFlag_other _ _ _ _ (by decide), State.flag_setFlag_same _ _ _ (by decide)]

theorem flag_OF_withStatus : (withStatus s overflow adjust carry r).flag fOF = overflow := by
  rw [withStatus, State.flag_setFlag_other _ _ _ _ (by decide), flag_resultFlags_other _ _ (by decide),
    State.flag_setFlag_other _ _ _ _ (by decide), State.flag_setFlag_same _ _ _ (by decide)]

theorem flag_withStatus_other {i : Nat} (other : i ∉ [fCF, fPF, fAF, fZF, fSF, fOF]) :
    (withStatus s overflow adjust carry r).flag i = s.flag i := by
  simp only [List.mem_cons, List.not_mem_nil, or_false, not_or] at other
  obtain ⟨cf, pf, af, zf, sf, ovf⟩ := other
  rw [withStatus, State.flag_setFlag_other _ _ _ _ cf, flag_resultFlags_other _ _ (by simp [zf, sf, pf]),
    State.flag_setFlag_other _ _ _ _ af, State.flag_setFlag_other _ _ _ _ ovf]

theorem withStatus_frame : withStatus s overflow adjust carry r =
    { s with eflags := (withStatus s overflow adjust carry r).eflags } :=
  setFlag_onlyEflags (setFlag_onlyEflags (setFlag_onlyEflags (setFlag_onlyEflags (setFlag_onlyEflags
    (setFlag_onlyEflags (s := s) rfl)))))

end

/-! ## Zero, sign and parity of a result -/

theorem even_length_filter {α : Type} (p : α → Bool) (l : List α) :
    decide ((l.filter p).length % 2 = 0) = !(l.foldr (fun x odd => p x ^^ odd) false) := by
  induction l with
  | nil => rfl
  | cons x xs ih =>
    rw [List.foldr_cons, List.filter_cons]
    cases p x
    · simpa using ih
    · rw [if_pos rfl, List.length_cons, Bool.true_xor, ← ih, ← decide_not]
      exact decide_eq_decide.mpr (by omega)

theorem evenParity_eq {w : Nat} (r : BitVec w) :
    evenParity (r.setWidth 8) = decide (((List.range 8).filter fun i => r.getLsbD i).length % 2 = 0) := by
  have bits : List.range 8 = [0, 1, 2, 3, 4, 5, 6, 7] := rfl
  rw [even_length_filter, bits]
  simp [evenParity]

theorem isZero_eq {w : Nat} (r : BitVec w) : (r == 0) = decide (r.toNat = 0) := by
  rw [beq_eq_decide]
  exact decide_eq_decide.mpr BitVec.toNat_eq

/-- The settings of a result that R49 calls standard, in a state t that comes from s. -/
def StandardFlags {w : Nat} (s t : State) (r : BitVec w) : Prop :=
  t.flag fZF = decide (r.toNat = 0) ∧ t.flag fSF = decide (r.toInt < 0) ∧
  t.flag fPF = decide ((((List.range 8).filter fun i => r.getLsbD i).length) % 2 = 0) ∧
  ∀ i, i ∉ [fCF, fPF, fAF, fZF, fSF, fOF] → t.flag i = s.flag i

theorem standardFlags_withStatus {w : Nat} (s : State) (overflow adjust carry : Bool) (r : BitVec w) :
    StandardFlags s (withStatus s overflow adjust carry r) r :=
  ⟨(flag_ZF_withStatus ..).trans (isZero_eq r), (flag_SF_withStatus ..).trans BitVec.msb_eq_toInt,
    (flag_PF_withStatus ..).trans (evenParity_eq r), fun _ other => flag_withStatus_other _ _ _ _ _ other⟩

/-! ## Overflow -/

/-- An integer that needs at most one bit more than the width wraps at most once. -/
theorem bmod_wraps_once {m : Nat} {n : Int} (lower : -m ≤ n) (upper : n < m) :
    n.bmod m = n ∨ n.bmod m = n - m ∨ n.bmod m = n + m := by
  by_cases low : n * 2 < -m
  · exact .inr (.inr ((Int.add_bmod_right n m).symm.trans (Int.bmod_eq_of_le_mul_two (by omega) (by omega))))
  by_cases high : m ≤ n * 2
  · exact .inr (.inl ((Int.sub_bmod_right n m).symm.trans (Int.bmod_eq_of_le_mul_two (by omega) (by omega))))
  · exact .inl (Int.bmod_eq_of_le_mul_two (by omega) (by omega))

section
variable {w : Nat} (a b : BitVec w) (c : Bool)

theorem toInt_addSum : (addSum a b c).toInt = (a.toInt + b.toInt + c.toNat).bmod (2 ^ w) := by
  simp [addSum, BitVec.toInt_add, BitVec.toInt_ofNat']

theorem toInt_subDiff : (subDiff a b c).toInt = (a.toInt - b.toInt - c.toNat).bmod (2 ^ w) := by
  simp [subDiff, BitVec.toInt_sub, BitVec.toInt_ofNat']

theorem two_mul_toInt_range (x : BitVec w) :
    -((2 ^ w : Nat) : Int) ≤ 2 * x.toInt ∧ 2 * x.toInt < (2 ^ w : Nat) :=
  ⟨by exact_mod_cast x.le_two_mul_toInt, by exact_mod_cast x.two_mul_toInt_lt⟩

/-- OF of an addition: two terms of one sign and a sum of the other say that the exact sum has wrapped. -/
theorem addOverflow_eq (pos : 0 < w) :
    addOverflow a b c = decide ((addSum a b c).toInt ≠ a.toInt + b.toInt + c.toNat) := by
  have half : 2 ^ w = 2 * 2 ^ (w - 1) := (mul_pow_sub_one pos.ne' 2).symm
  have carry := c.toNat_le
  have rangeA := two_mul_toInt_range a
  have rangeB := two_mul_toInt_range b
  have rangeSum := two_mul_toInt_range (addSum a b c)
  have wraps := bmod_wraps_once (m := 2 ^ w) (n := a.toInt + b.toInt + c.toNat) (by omega) (by omega)
  rw [← toInt_addSum] at wraps
  rw [Bool.eq_iff_iff]
  simp only [addOverflow, BitVec.msb_eq_toInt, Bool.and_eq_true, beq_iff_eq, bne_iff_ne, decide_eq_decide,
    decide_eq_true_eq, ne_eq]
  omega

/-- OF of a subtraction: terms of two signs and a difference of the second's sign say that the exact difference has
wrapped. -/
theorem subOverflow_eq (pos : 0 < w) :
    subOverflow a b c = decide ((subDiff a b c).toInt ≠ a.toInt - b.toInt - c.toNat) := by
  have half : 2 ^ w = 2 * 2 ^ (w - 1) := (mul_pow_sub_one pos.ne' 2).symm
  have borrow := c.toNat_le
  have rangeA := two_mul_toInt_range a
  have rangeB := two_mul_toInt_range b
  have rangeDiff := two_mul_toInt_range (subDiff a b c)
  have wraps := bmod_wraps_once (m := 2 ^ w) (n := a.toInt - b.toInt - c.toNat) (by omega) (by omega)
  rw [← toInt_subDiff] at wraps
  rw [Bool.eq_iff_iff]
  simp only [subOverflow, BitVec.msb_eq_toInt, Bool.and_eq_true, bne_iff_ne, decide_eq_decide, decide_eq_true_eq, ne_eq]
  omega

end

/-! ## Additions and subtractions, bit by bit (R49) -/

section
variable {w : Nat} (pos : 0 < w) (a b : BitVec w) (c : Bool) (s : State)
include pos

theorem addFlags_bits :
    (s.addFlags a b c).flag fCF = decide (2 ^ w ≤ a.toNat + b.toNat + c.toNat) ∧
    (s.addFlags a b c).flag fOF = decide ((addSum a b c).toInt ≠ a.toInt + b.toInt + c.toNat) ∧
    (s.addFlags a b c).flag fAF = decide (16 ≤ a.toNat % 16 + b.toNat % 16 + c.toNat) ∧
    StandardFlags s (s.addFlags a b c) (addSum a b c) ∧
    s.addFlags a b c = { s with eflags := (s.addFlags a b c).eflags } := by
  rw [addFlags_eq, ← addOverflow_eq a b c pos]
  exact ⟨flag_CF_withStatus .., flag_OF_withStatus .., flag_AF_withStatus .., standardFlags_withStatus ..,
    withStatus_frame ..⟩

theorem subFlags_bits :
    (s.subFlags a b c).flag fCF = decide (a.toNat < b.toNat + c.toNat) ∧
    (s.subFlags a b c).flag fOF = decide ((subDiff a b c).toInt ≠ a.toInt - b.toInt - c.toNat) ∧
    (s.subFlags a b c).flag fAF = decide (a.toNat % 16 < b.toNat % 16 + c.toNat) ∧
    StandardFlags s (s.subFlags a b c) (subDiff a b c) ∧
    s.subFlags a b c = { s with eflags := (s.subFlags a b c).eflags } := by
  rw [subFlags_eq, ← subOverflow_eq a b c pos]
  exact ⟨flag_CF_withStatus .., flag_OF_withStatus .., flag_AF_withStatus .., standardFlags_withStatus ..,
    withStatus_frame ..⟩

end

/-! ## The conditions (R52) -/

/-- The even one of a pair of conditions is the predicate that its upper bits name. -/
theorem cond_even (s : State) (ttt : BitVec 3) : s.cond (ttt ++ 0#1) = s.condBase ttt := by
  rw [State.cond, BitVec.extractLsb'_append_eq_left, BitVec.getLsbD_append]
  exact Bool.xor_false _

/-- The odd one of a pair of conditions is the opposite of the even one. -/
theorem cond_odd (s : State) (ttt : BitVec 3) : s.cond (ttt ++ 1#1) = !s.condBase ttt := by
  rw [State.cond, BitVec.extractLsb'_append_eq_left, BitVec.getLsbD_append]
  exact Bool.xor_true _

theorem cond_even_iff {s : State} {ttt : BitVec 3} {P : Prop} (base : s.condBase ttt = true ↔ P) :
    s.cond (ttt ++ 0#1) = true ↔ P := by
  rw [cond_even, base]

theorem cond_odd_iff {s : State} {ttt : BitVec 3} {P : Prop} (base : s.condBase ttt = false ↔ P) :
    s.cond (ttt ++ 1#1) = true ↔ P := by
  rw [cond_odd, Bool.not_eq_true', base]

/-- Settles O4: additions and subtractions write the flags of one result, whose exact value tells whether it fits; each
condition is the predicate of its upper bits or, with bit 0 set, the opposite. -/
theorem flagFormulasAndConditions : Obligations.FlagFormulasAndConditions := by
  unfold Obligations.FlagFormulasAndConditions
  refine ⟨fun sz a b c s => ?formulas, fun s => ?conditions⟩
  case formulas =>
    have pos : 0 < sz.bits := by cases sz <;> decide
    have carry : (if c then 1 else 0) = c.toNat := by cases c <;> rfl
    simp only [carry]
    exact ⟨addFlags_bits pos a b c s, subFlags_bits pos a b c s⟩
  case conditions =>
    exact ⟨cond_even_iff (ttt := 0) .rfl, cond_odd_iff (ttt := 0) .rfl, cond_even_iff (ttt := 1) .rfl,
      cond_odd_iff (ttt := 1) .rfl, cond_even_iff (ttt := 2) .rfl, cond_odd_iff (ttt := 2) .rfl,
      cond_even_iff (ttt := 3) Bool.or_eq_true_iff, cond_odd_iff (ttt := 3) Bool.or_eq_false_iff,
      cond_even_iff (ttt := 4) .rfl, cond_odd_iff (ttt := 4) .rfl, cond_even_iff (ttt := 5) .rfl,
      cond_odd_iff (ttt := 5) .rfl, cond_even_iff (ttt := 6) bne_iff_ne, cond_odd_iff (ttt := 6) bne_eq_false_iff_eq,
      cond_even_iff (ttt := 7) (Bool.or_eq_true_iff.trans (or_congr_right bne_iff_ne)),
      cond_odd_iff (ttt := 7) (Bool.or_eq_false_iff.trans (and_congr_right' bne_eq_false_iff_eq))⟩

end Sys2Proof.Proofs
end

/-! Proofs of the family 20_memory: the bytes F3 90 are PAUSE, and PAUSE is executed as NOP (R256, 30 R420). -/
section
namespace Sys2Proof.Proofs
open Machine

/-! ## Opcode 90 -/

/-- The byte 90 is NOP's opcode; F3 taken before it makes it PAUSE's. -/
theorem decodeOpcode_90 (c : DecodeCtx) (rest : List Byte) :
    (decodeOpcode c).run (0x90 :: rest) = .ok ((none, if c.rep = some true then .pause else .nop), rest) := rfl

/-- F3 is a part of the instruction when 90 follows it. -/
theorem mandApplies_pF3_90 (rest : List Byte) : mandApplies .pF3 (0x90 :: rest) = some true := rfl

/-- F3 90 is PAUSE, whatever the size attributes and the prefixes before it. -/
theorem decode_F3_90 (c : DecodeCtx) (rest : List Byte) : decode c (0xF3 :: 0x90 :: rest) = .ok .pause 2 := by
  have prefixByte : prefixOf 0xF3 = some .rep := by decide
  have mandatory : mandOf 0xF3 = some .pF3 := by decide
  have read : (decodeOpcode (c.push .pF3)).run (0x90 :: rest) = .ok ((none, .pause), rest) := decodeOpcode_90 ..
  have length : (0x90 :: rest : List Byte).length + 1 - rest.length = 2 := by rw [List.length_cons]; omega
  simp only [decode, prefixByte, mandatory, mandApplies_pF3_90, read, or_true, if_true, length]

/-! ## The execution -/

/-- NOP has an empty body. -/
theorem exec_nop (s : State) : exec .nop s = runPlain false (return ()) s := rfl

/-- PAUSE has an empty body. -/
theorem exec_pause (s : State) : exec .pause s = runPlain false (return ()) s := rfl

/-- Settles O60: the decoder takes F3 and 90 as one instruction, and its body is NOP's. -/
theorem pauseActsAsNop : Obligations.PauseActsAsNop := by
  unfold Obligations.PauseActsAsNop
  exact ⟨fun _ _ rest => decode_F3_90 _ rest, fun s => (exec_pause s).trans (exec_nop s).symm⟩

end Sys2Proof.Proofs
end

/-! Proofs of the family 43_system: the bytes 0F 0B are UD2 and 0F B9 the Group 10 opcode, and both are #UD, with LOCK
before them too (R900, 30 R334, 20 R260). -/
section
namespace Sys2Proof.Proofs
open Machine

/-! ## The opcodes 0F 0B and 0F B9 -/

/-- A first byte that is no prefix begins an opcode, and the decoder answers what the opcode maps read. -/
theorem decode_of_opcode {c : DecodeCtx} {b : Byte} {bs rest : List Byte} {m : Option Mand} {i : Instr}
    (opcode : prefixOf b = none) (read : (decodeOpcode c).run (b :: bs) = .ok ((m, i), rest)) :
    decode c (b :: bs) = .ok i (bs.length + 1 - rest.length) := by
  simp only [decode, opcode, read, DecodeResult.ofOpcode]

theorem prefixOf_0F : prefixOf 0x0F = none := by decide

/-- 0F 0B has no operand. -/
theorem decodeOpcode_0F_0B (c : DecodeCtx) (rest : List Byte) :
    (decodeOpcode c).run (0x0F :: 0x0B :: rest) = .ok ((none, .ud2), rest) := rfl

/-- 0F B9 has a ModR/M operand, which it makes no use of. -/
theorem decodeOpcode_0F_B9 {c : DecodeCtx} {bs rest : List Byte} {operand : RegNum × Rm}
    (modrm : (readModrm c.as32).run bs = .ok (operand, rest)) :
    (decodeOpcode c).run (0x0F :: 0xB9 :: bs) = .ok ((none, .group10), rest) := by
  have cell : (decodeOpcode c).run (0x0F :: 0xB9 :: bs) =
      (plain do let _ ← readModrm c.as32; return .group10).run bs := rfl
  rw [cell, plain, StateT.run_bind, StateT.run_bind, modrm]
  rfl

/-- The ModR/M byte C0 names a register, so that no displacement follows it. -/
theorem readModrm_C0 (as32 : Bool) (rest : List Byte) :
    (readModrm as32).run (0xC0 :: rest) = .ok ((0, .reg 0), rest) := rfl

theorem decode_0F_0B (c : DecodeCtx) : decode c [0x0F, 0x0B] = .ok .ud2 2 :=
  decode_of_opcode prefixOf_0F (decodeOpcode_0F_0B c [])

theorem decode_0F_B9_C0 (c : DecodeCtx) : decode c [0x0F, 0xB9, 0xC0] = .ok .group10 3 :=
  decode_of_opcode prefixOf_0F (decodeOpcode_0F_B9 (readModrm_C0 c.as32 []))

/-! ## The execution -/

/-- An event of an instruction that has changed nothing is delivered from the state before it, but for what the
instruction before left for one instruction. -/
theorem forEvent_begin_fault (s : State) : s.forEvent s.begin .fault =
    { s with ssShadow := false, stiShadow := false, lastIo := none, repBusy := false, cur := .none } := rfl

/-- A body that is #UD raises it whether LOCK, itself #UD, was before the instruction or not. -/
theorem runPlain_raiseUD (s : State) :
    runPlain false raiseUD s = takeEvent { vector := 6 } s.eip s.eip (s.forEvent s.begin .fault) := by
  cases lock : s.cur.lock with
  | true => exact runJump_locked lock
  | false =>
    simp only [runPlain, runJump, lock, Bool.false_and, Bool.false_eq_true, if_false, raiseUD, run_bind, run_raise,
      afterwards_error, State.savedEip]

/-- UD2's body is #UD. -/
theorem exec_ud2 (s : State) : exec .ud2 s = runPlain false raiseUD s := rfl

/-- The Group 10 opcode's body is #UD. -/
theorem exec_group10 (s : State) : exec .group10 s = runPlain false raiseUD s := rfl

/-- Settles O59: the decoder reads both opcodes under every size attribute, and the body of both is #UD. -/
theorem undefinedInstruction : Obligations.UndefinedInstruction := by
  unfold Obligations.UndefinedInstruction
  refine ⟨fun _ _ => ⟨decode_0F_0B _, decode_0F_B9_C0 _⟩, fun s => ?raised⟩
  case raised =>
    rw [exec_ud2, exec_group10, runPlain_raiseUD, forEvent_begin_fault]
    exact ⟨rfl, rfl⟩

end Sys2Proof.Proofs
end

/-! Proofs of the family 44_x87: rounding of exact numbers to a unit and to a format, and the order of values (44 R922, R923,
R926; 46 R1143); exact sums, products, quotients and roots, and what the bits of a value stand for (44 R921, R922; 46 R1144). -/
section
namespace Sys2Proof.Proofs
open Machine Claims

/-! ## Numbers in units of a power of two -/

/-- Places moved from the exponent into the whole number. -/
theorem scale_shift {K : Type} [Field K] [CharZero K] (n k : Nat) (e : Int) :
    ((n * 2 ^ k : Nat) : K) * 2 ^ e = n * 2 ^ (e + (k : Int)) := by
  rw [zpow_add₀ two_ne_zero, zpow_natCast, Nat.cast_mul, Nat.cast_pow, Nat.cast_ofNat, mul_assoc, mul_comm (2 ^ k)]

/-- A power of two as a whole number of units of a lower one. -/
theorem two_zpow_add (e : Int) (k : Nat) : (2 : ℝ) ^ (e + (k : Int)) = ((2 ^ k : Nat) : ℝ) * 2 ^ e := by
  simpa using (scale_shift (K := ℝ) 1 k e).symm

/-- A number below n + 1 and not below n, n a whole number with its leading bit at 2^k, lies between 2^k and 2^(k+1). -/
theorem leading_bit {n : Nat} {a : ℝ} (pos : n ≠ 0) (low : n ≤ a) (high : a < n + 1) (e : Int) :
    (2 : ℝ) ^ (e + (Nat.log2 n : Int)) ≤ a * 2 ^ e ∧ a * 2 ^ e < (2 : ℝ) ^ (e + (Nat.log2 n : Int) + 1) := by
  have scale : (0 : ℝ) < 2 ^ e := by positivity
  have floor : ((2 ^ Nat.log2 n : Nat) : ℝ) ≤ n := by exact_mod_cast Nat.log2_self_le pos
  have ceil : (n : ℝ) + 1 ≤ ((2 ^ (Nat.log2 n + 1) : Nat) : ℝ) := by exact_mod_cast Nat.lt_log2_self (n := n)
  rw [add_assoc, ← Nat.cast_succ, two_zpow_add, two_zpow_add]
  exact ⟨mul_le_mul_of_nonneg_right (floor.trans low) scale.le, mul_lt_mul_of_pos_right (high.trans_le ceil) scale⟩

/-- A magnitude has one leading bit. -/
theorem leading_bit_unique {m : ℝ} {s t : Int} (hs : (2 : ℝ) ^ s ≤ m ∧ m < 2 ^ (s + 1))
    (ht : (2 : ℝ) ^ t ≤ m ∧ m < 2 ^ (t + 1)) : s = t := by
  have lt : s < t + 1 := (zpow_lt_zpow_iff_right₀ one_lt_two).1 (hs.1.trans_lt ht.2)
  have gt : t < s + 1 := (zpow_lt_zpow_iff_right₀ one_lt_two).1 (ht.1.trans_lt hs.2)
  omega

/-- Where the leading bit of q units of 2^e stands, against a power of two. -/
theorem two_zpow_le_iff {q : Nat} (pos : q ≠ 0) (e t : Int) :
    (2 : ℝ) ^ t ≤ q * (2 : ℝ) ^ e ↔ t ≤ e + (Nat.log2 q : Int) := by
  obtain ⟨low, high⟩ := leading_bit pos le_rfl (lt_add_one (q : ℝ)) e
  constructor
  · intro h
    have := (zpow_lt_zpow_iff_right₀ (one_lt_two : (1 : ℝ) < 2)).1 (h.trans_lt high)
    omega
  · exact fun h => (zpow_le_zpow_right₀ one_le_two h).trans low

/-- What a number stands for, in units of its last place: its whole number of them, and a part of one if it is sticky. -/
theorem standsFor_iff {x : Exact} {m : ℝ} : StandsFor x m ↔
    ∃ d : ℝ, m / 2 ^ x.exp = x.mant + d ∧ 0 ≤ d ∧ d < 1 ∧ (x.sticky = false ↔ d = 0) := by
  have scale : (0 : ℝ) < 2 ^ x.exp := by positivity
  unfold StandsFor
  dsimp only
  cases x.sticky with
  | false =>
    simp only [Bool.false_eq_true, if_false, true_iff]
    rw [← div_eq_iff scale.ne']
    exact ⟨fun h => ⟨0, by rw [h, add_zero], le_rfl, one_pos, rfl⟩, fun ⟨d, h, _, _, zero⟩ => by rw [h, zero, add_zero]⟩
  | true =>
    simp only [if_true, Bool.true_eq_false, false_iff]
    rw [← lt_div_iff₀ scale, ← add_one_mul, ← div_lt_iff₀ scale]
    constructor
    · exact fun ⟨low, high⟩ => ⟨m / 2 ^ x.exp - x.mant, by ring, by linarith, by linarith, by linarith⟩
    · rintro ⟨d, h, low, high, nonzero⟩
      have pos : 0 < d := lt_of_le_of_ne low (Ne.symm nonzero)
      rw [h]
      exact ⟨by linarith, by linarith⟩

/-! ## Rounding to a multiple of a unit (R922) -/

theorem roundsUp_nearest (neg odd : Bool) (r : Rest) : roundsUp 0 neg odd r = (r == .above || (r == .half && odd)) := rfl
theorem roundsUp_down (neg odd : Bool) (r : Rest) : roundsUp 1 neg odd r = (neg && r != .zero) := rfl
theorem roundsUp_up (neg odd : Bool) (r : Rest) : roundsUp 2 neg odd r = (!neg && r != .zero) := rfl
theorem roundsUp_toZero (neg odd : Bool) (r : Rest) : roundsUp 3 neg odd r = false := rfl

/-- A whole number of units is not rounded up. -/
theorem roundsUp_zero (rc : BitVec 2) (neg odd : Bool) : roundsUp rc neg odd .zero = false := by
  revert rc neg odd; decide

/-- The rounding modes: nearest, down, up, toward zero. -/
theorem roundingMode_cases (rc : BitVec 2) : rc = 0 ∨ rc = 1 ∨ rc = 2 ∨ rc = 3 := by
  revert rc; decide

/-- The part d of a unit is what the rest says. -/
def RestIs (d : ℝ) : Rest → Prop
  | .zero => d = 0
  | .below => 0 < d ∧ d < 1 / 2
  | .half => d = 1 / 2
  | .above => 1 / 2 < d ∧ d < 1

/-- A magnitude of q units and a rest, rounded by its rest. -/
def roundedBy (rc : BitVec 2) (neg : Bool) (q : Nat) (rest : Rest) : Rounded :=
  let up := roundsUp rc neg (q % 2 == 1) rest
  { q := if up then q + 1 else q, inexact := rest != .zero, up }

theorem RestIs.bounds {d : ℝ} {rest : Rest} (h : RestIs d rest) : 0 ≤ d ∧ d < 1 ∧ (rest = .zero ↔ d = 0) := by
  cases rest with
  | zero => exact ⟨h.ge, h.trans_lt one_pos, iff_of_true rfl h⟩
  | below =>
    obtain ⟨pos, lt⟩ := h
    exact ⟨pos.le, by linarith, iff_of_false nofun pos.ne'⟩
  | half =>
    have h : d = 1 / 2 := h
    exact ⟨by linarith, by linarith, iff_of_false nofun (by rw [h]; norm_num)⟩
  | above =>
    obtain ⟨gt, lt⟩ := h
    exact ⟨by linarith, lt, iff_of_false nofun (by linarith)⟩

/-- To nearest the rest is rounded to the nearer unit, and a half to the even one. -/
theorem RestIs.nearest {d : ℝ} {rest : Rest} (h : RestIs d rest) (neg odd : Bool) :
    if roundsUp 0 neg odd rest then 1 / 2 ≤ d ∧ (d = 1 / 2 → odd = true) else d ≤ 1 / 2 ∧ (d = 1 / 2 → odd = false) := by
  rw [roundsUp_nearest]
  cases rest with
  | zero => simp [show d = 0 from h]
  | below => simpa using ⟨h.2.le.trans_eq (by norm_num), fun e => absurd (h.2.trans_eq' e) (by norm_num)⟩
  | half => cases odd <;> simp [show d = 1 / 2 from h]
  | above => simpa using ⟨h.1.le.trans_eq' (by norm_num), fun e => absurd (h.1.trans_eq e) (by norm_num)⟩

section
variable {rc : BitVec 2} {neg : Bool} {e : Int} {m : ℝ} {q : Nat} {rest : Rest} (h : RestIs (m / 2 ^ e - q) rest)
include h

/-- A magnitude that is not rounded up is left at the unit below it: in a directed mode away from zero, only if it is one. -/
theorem roundsTo_kept (up : roundsUp rc neg (q % 2 == 1) rest = false) :
    RoundsTo rc neg e m { q, inexact := rest != .zero, up := false } := by
  obtain ⟨low, high, exact_iff⟩ := h.bounds
  have near := h.nearest neg (q % 2 == 1)
  unfold RoundsTo
  generalize m / (2 : ℝ) ^ e = a at *
  have below : (q : ℝ) ≤ a := by linarith
  have distance : |(q : ℝ) - a| = a - q := by rw [abs_sub_comm, abs_of_nonneg low]
  have inexact : (rest != .zero) = true ↔ (q : ℝ) ≠ a := by rw [bne_iff_ne, Ne, exact_iff, sub_eq_zero, eq_comm]
  have onUnit (whole : rest = .zero) : a ≤ q := by linarith [exact_iff.1 whole]
  refine ⟨inexact, by simpa using below, distance ▸ high, ?_, ?_, ?_, fun _ => below⟩
  · rintro rfl
    rw [up] at near
    rw [distance]
    simpa using near
  · rintro rfl
    rw [roundsUp_down] at up
    cases neg with
    | false => exact below
    | true => exact onUnit (by simpa using up)
  · rintro rfl
    rw [roundsUp_up] at up
    cases neg with
    | false => exact onUnit (by simpa using up)
    | true => exact below

/-- A magnitude that is rounded up has a rest, and is taken to the unit above it. -/
theorem roundsTo_raised (up : roundsUp rc neg (q % 2 == 1) rest = true) :
    RoundsTo rc neg e m { q := q + 1, inexact := rest != .zero, up := true } := by
  obtain ⟨low, high, exact_iff⟩ := h.bounds
  have near := h.nearest neg (q % 2 == 1)
  have off : rest ≠ .zero := by
    rintro rfl
    rw [roundsUp_zero] at up
    cases up
  unfold RoundsTo
  generalize m / (2 : ℝ) ^ e = a at *
  have above : a < q + 1 := by linarith
  have rest_pos : 0 < a - q := lt_of_le_of_ne low (Ne.symm (mt exact_iff.2 off))
  have distance : |(q : ℝ) + 1 - a| = q + 1 - a := abs_of_pos (by linarith)
  simp only [Nat.cast_add, Nat.cast_one]
  refine ⟨iff_of_true (by simpa using off) above.ne', by simpa using above, by rw [distance]; linarith, ?_, ?_, ?_, ?_⟩
  · rintro rfl
    rw [up, if_pos rfl] at near
    obtain ⟨half_le, odd⟩ := near
    rw [distance]
    refine ⟨by linarith, fun half => ?_⟩
    have : q % 2 = 1 := by simpa using odd (by linarith)
    omega
  · rintro rfl
    rw [roundsUp_down, Bool.and_eq_true] at up
    rw [up.1]
    exact above.le
  · rintro rfl
    rw [roundsUp_up, Bool.and_eq_true, Bool.not_eq_true'] at up
    rw [up.1]
    exact above.le
  · rintro rfl
    rw [roundsUp_toZero] at up
    cases up

theorem roundsTo_roundedBy : RoundsTo rc neg e m (roundedBy rc neg q rest) := by
  unfold roundedBy
  cases up : roundsUp rc neg (q % 2 == 1) rest with
  | false => exact roundsTo_kept h up
  | true => exact roundsTo_raised h up

end

/-- The rest that `Exact.roundAt` finds below the unit 2^k places above the last one. -/
def restAt (x : Exact) (k : Nat) : Rest :=
  let r := x.mant % 2 ^ k
  if r = 0 ∧ !x.sticky then .zero
  else if 2 * r < 2 ^ k ∨ k = 0 then .below
  else if 2 * r = 2 ^ k ∧ !x.sticky then .half
  else .above

theorem roundAt_eq (x : Exact) (rc : BitVec 2) (e : Int) : x.roundAt rc e =
    roundedBy rc x.neg (x.mant * 2 ^ (x.exp - e).toNat / 2 ^ (e - x.exp).toNat) (restAt x (e - x.exp).toNat) := rfl

/-- A unit k places above the last one: what is below it are r of 2^k places and the part d of one that the number has below
its last place. -/
theorem restIs_restAt {x : Exact} {m : ℝ} (stands : StandsFor x m) {k : Nat} (room : x.sticky = true → k ≠ 0) :
    RestIs (m / 2 ^ (x.exp + (k : Int)) - (x.mant / 2 ^ k : Nat)) (restAt x k) := by
  obtain ⟨d, place, d_nonneg, d_lt, sticky_iff⟩ := standsFor_iff.1 stands
  have unit : (0 : ℝ) < 2 ^ k := by positivity
  have part : m / 2 ^ (x.exp + (k : Int)) - (x.mant / 2 ^ k : Nat) = ((x.mant % 2 ^ k : Nat) + d) / 2 ^ k := by
    have divided : ((x.mant / 2 ^ k : Nat) : ℝ) * 2 ^ k + ((x.mant % 2 ^ k : Nat) : ℝ) = x.mant := by
      exact_mod_cast Nat.div_add_mod' x.mant (2 ^ k)
    rw [zpow_add₀ two_ne_zero, zpow_natCast, ← div_div, place, eq_div_iff unit.ne', sub_mul, div_mul_cancel₀ _ unit.ne']
    linarith
  have small : x.mant % 2 ^ k < 2 ^ k := Nat.mod_lt _ (Nat.two_pow_pos k)
  have whole (a b : Nat) (h : a ≤ b * 2 ^ k) : (a : ℝ) ≤ b * 2 ^ k := by exact_mod_cast h
  rw [part]
  unfold restAt
  dsimp only
  generalize x.mant % 2 ^ k = r at *
  split_ifs with zero below half
  · have : d = 0 := sticky_iff.1 (by simpa using zero.2)
    simp [RestIs, zero.1, this]
  · have positive : 0 < (r : ℝ) + d := by
      refine lt_of_le_of_ne (by positivity) fun none => zero ?_
      obtain ⟨r_zero, d_eq⟩ := (add_eq_zero_iff_of_nonneg r.cast_nonneg d_nonneg).1 none.symm
      exact ⟨Nat.cast_eq_zero.1 r_zero, by simpa using sticky_iff.2 d_eq⟩
    have places : k ≠ 0 := by
      rintro rfl
      exact zero ⟨by omega, by simpa using mt room (by simp)⟩
    have : 2 ^ k = 2 * 2 ^ (k - 1) := by rw [← pow_succ']; congr 1; omega
    have := whole (2 * r + 2) 1 (by omega)
    push_cast at this
    exact ⟨div_pos positive unit, by rw [div_lt_iff₀ unit]; linarith⟩
  · have d_eq : d = 0 := sticky_iff.1 (by simpa using half.2)
    have : (r : ℝ) * 2 = 2 ^ k := by exact_mod_cast half.1 ▸ Nat.mul_comm r 2
    rw [RestIs, d_eq, add_zero, div_eq_div_iff unit.ne' two_ne_zero, one_mul, this]
  · have high := whole (r + 1) 1 (by omega)
    push_cast at high
    refine ⟨?_, by rw [div_lt_one unit]; linarith⟩
    rw [div_lt_div_iff₀ two_pos unit, one_mul]
    rcases Nat.lt_or_ge (2 ^ k) (2 * r) with more | equal
    · have : (2 : ℝ) ^ k < 2 * r := by exact_mod_cast more
      linarith
    · have same : 2 * r = 2 ^ k := by omega
      have : (2 : ℝ) * r = 2 ^ k := by exact_mod_cast same
      have : 0 < d := lt_of_le_of_ne d_nonneg fun none => half ⟨same, by simpa using sticky_iff.2 none.symm⟩
      linarith

/-- `Exact.roundAt` rounds what the number stands for. -/
theorem roundsTo_roundAt {x : Exact} {m : ℝ} (stands : StandsFor x m) (rc : BitVec 2) {e : Int}
    (room : x.sticky = true → x.exp < e) : RoundsTo rc x.neg e m (x.roundAt rc e) := by
  rw [roundAt_eq]
  refine roundsTo_roundedBy ?_
  rcases le_total x.exp e with below | above
  · obtain ⟨k, rfl⟩ := Int.le.dest below
    have rest := restIs_restAt stands (k := k) fun s => by have := room s; omega
    simpa using rest
  · obtain ⟨k, exp_eq⟩ := Int.le.dest above
    have exact : x.sticky = false := by simpa using mt room (by omega)
    have value : m = x.mant * 2 ^ x.exp := by simpa [StandsFor, exact] using stands
    have whole : m / 2 ^ e = (x.mant * 2 ^ k : Nat) := by
      rw [value, ← exp_eq, zpow_add₀ two_ne_zero, zpow_natCast, mul_left_comm, mul_div_cancel_left₀ _ (by positivity)]
      push_cast; rfl
    simp [whole, show (x.exp - e).toNat = k by omega, show (e - x.exp).toNat = 0 by omega, restAt, exact, RestIs, Nat.mod_one]

/-- Two whole numbers less than 1 from a magnitude, on the same side of it, are the same. -/
theorem sameSide_unique {a : ℝ} {q q' : Nat} (h : |(q : ℝ) - a| < 1) (h' : |(q' : ℝ) - a| < 1)
    (side : (q : ℝ) ≤ a ∧ (q' : ℝ) ≤ a ∨ a ≤ q ∧ a ≤ q') : q = q' := by
  rw [abs_lt] at h h'
  have lt : (q : ℝ) < q' + 1 := by rcases side with side | side <;> linarith
  have gt : (q' : ℝ) < q + 1 := by rcases side with side | side <;> linarith
  have : q < q' + 1 := by exact_mod_cast lt
  have : q' < q + 1 := by exact_mod_cast gt
  omega

/-- Two whole numbers at most 1/2 from a magnitude, even where they are 1/2 from it, are the same. -/
theorem nearest_unique {a : ℝ} {q q' : Nat} (h : |(q : ℝ) - a| ≤ 1 / 2 ∧ (|(q : ℝ) - a| = 1 / 2 → q % 2 = 0))
    (h' : |(q' : ℝ) - a| ≤ 1 / 2 ∧ (|(q' : ℝ) - a| = 1 / 2 → q' % 2 = 0)) : q = q' := by
  wlog le : q ≤ q' generalizing q q'
  · exact (this h' h (Nat.le_of_not_le le)).symm
  obtain ⟨near, even⟩ := h
  obtain ⟨near', even'⟩ := h'
  rw [abs_le] at near near'
  have : (q' : ℝ) ≤ q + 1 := by linarith
  have : q' ≤ q + 1 := by exact_mod_cast this
  by_contra differ
  obtain rfl : q' = q + 1 := by omega
  push_cast at near' even'
  have tie : a = q + 1 / 2 := by linarith
  have := even (by rw [tie]; norm_num)
  have := even' (by rw [tie]; norm_num)
  omega

/-- A magnitude has one rounding to a multiple of 2^e in each mode. -/
theorem roundsTo_unique {rc : BitVec 2} {neg : Bool} {e : Int} {m : ℝ} {r r' : Rounded} (h : RoundsTo rc neg e m r)
    (h' : RoundsTo rc neg e m r') : r = r' := by
  obtain ⟨inexact, up, close, nearest, down, upward, chop⟩ := h
  obtain ⟨inexact', up', close', nearest', down', upward', chop'⟩ := h'
  have q_eq : r.q = r'.q := by
    obtain rfl | rfl | rfl | rfl := roundingMode_cases rc
    · exact nearest_unique (nearest rfl) (nearest' rfl)
    · cases neg with
      | false => exact sameSide_unique close close' (.inl ⟨down rfl, down' rfl⟩)
      | true => exact sameSide_unique close close' (.inr ⟨down rfl, down' rfl⟩)
    · cases neg with
      | false => exact sameSide_unique close close' (.inr ⟨upward rfl, upward' rfl⟩)
      | true => exact sameSide_unique close close' (.inl ⟨upward rfl, upward' rfl⟩)
    · exact sameSide_unique close close' (.inl ⟨chop rfl, chop' rfl⟩)
  rw [q_eq] at inexact up
  have inexact_eq : r.inexact = r'.inexact := Bool.eq_iff_iff.2 (inexact.trans inexact'.symm)
  have up_eq : r.up = r'.up := Bool.eq_iff_iff.2 (up.trans up'.symm)
  exact (Rounded.mk.injEq ..).mpr ⟨q_eq, inexact_eq, up_eq⟩

/-- A power of two that is a whole number of units and bounds a magnitude bounds the rounded one. -/
theorem roundsTo_two_pow {rc : BitVec 2} {neg : Bool} {e : Int} {m : ℝ} {r : Rounded} (h : RoundsTo rc neg e m r) {k : Nat}
    {t : Int} (place : t = e + (k : Int)) : ((2 : ℝ) ^ t ≤ m → 2 ^ k ≤ r.q) ∧ (m ≤ (2 : ℝ) ^ t → r.q ≤ 2 ^ k) := by
  obtain ⟨_, _, close, _⟩ := h
  rw [abs_lt] at close
  have scale : (0 : ℝ) < 2 ^ e := by positivity
  rw [place, two_zpow_add, ← le_div_iff₀ scale, ← div_le_iff₀ scale]
  constructor <;> intro bound
  · have : ((2 ^ k : Nat) : ℝ) < (r.q + 1 : Nat) := by push_cast at bound ⊢; linarith
    exact Nat.lt_succ_iff.1 (Nat.cast_lt.1 this)
  · have : (r.q : ℝ) < (2 ^ k + 1 : Nat) := by push_cast at bound ⊢; linarith
    exact Nat.lt_succ_iff.1 (Nat.cast_lt.1 this)

/-! ## Encoding a rounded magnitude (R921) -/

/-- Where the leading bit of q stands that rounding to p bits gives: at p - 1, or at p if it was carried there. -/
theorem log2_of_rounded {p q : Nat} (pos : 0 < p) (low : 2 ^ (p - 1) ≤ q) (high : q ≤ 2 ^ p) :
    Nat.log2 q = if q = 2 ^ p then p else p - 1 := by
  split_ifs with carried
  · rw [carried, Nat.log2_two_pow]
  · have next : p - 1 + 1 = p := by omega
    rw [Nat.log2_eq_iff (by have := Nat.two_pow_pos (p - 1); omega), next]
    omega

/-- A magnitude of at most p bits whose leading bit is in the range of exponents is encoded with it in front. -/
theorem encodes_pack_normal {f : Fmt} {q : Nat} {e : Int} (bits : 0 < f.p) (pos : q ≠ 0) (fits : q ≤ 2 ^ f.p)
    (least : f.emin ≤ e + (Nat.log2 q : Int)) : Encodes f (f.pack q e) (q * (2 : ℝ) ^ e) := by
  have low := Nat.log2_self_le pos
  have high : q < 2 ^ (Nat.log2 q + 1) := Nat.lt_log2_self
  generalize hn : Nat.log2 q = n at *
  have field : 1 ≤ (e + n + f.emax).toNat := by unfold Fmt.emin at least; omega
  have exp_eq : ((max (e + n + f.emax).toNat 1 : Nat) : Int) - f.emax = e + n := by unfold Fmt.emin at least; omega
  simp only [Fmt.pack, pos, hn, if_false, least.not_gt]
  simp only [Encodes, (show (e + n + f.emax).toNat ≠ 0 by omega), if_false, exp_eq]
  rcases Nat.lt_or_ge n f.p with short | long
  · have shift : n - (f.p - 1) = 0 := by omega
    have bottom : 2 ^ (f.p - 1) = 2 ^ n * 2 ^ (f.p - 1 - n) := by rw [← pow_add]; congr 1; omega
    have top : 2 ^ f.p = 2 ^ (n + 1) * 2 ^ (f.p - 1 - n) := by rw [← pow_add]; congr 1; omega
    rw [shift, pow_zero, Nat.div_one, scale_shift, bottom, top]
    refine ⟨⟨Nat.mul_le_mul_right _ low, Nat.mul_lt_mul_of_pos_right high (Nat.two_pow_pos _)⟩, ?_⟩
    congr 2
    omega
  · obtain rfl : n = f.p := le_antisymm ((Nat.pow_le_pow_iff_right one_lt_two).1 (low.trans fits)) long
    obtain rfl : q = 2 ^ f.p := le_antisymm fits low
    have half : 2 ^ f.p * 2 ^ (f.p - 1 - f.p) / 2 ^ (f.p - (f.p - 1)) = 2 ^ (f.p - 1) := by
      rw [show f.p - 1 - f.p = 0 by omega, pow_zero, mul_one, Nat.pow_div (by omega) two_pos]
      congr 1
      omega
    rw [half]
    refine ⟨⟨le_rfl, Nat.pow_lt_pow_right one_lt_two (by omega)⟩, ?_⟩
    have carried : 2 ^ f.p = 2 ^ (f.p - 1) * 2 ^ 1 := by rw [← pow_add]; congr 1; omega
    rw [carried, scale_shift]
    congr 2
    omega

/-- A magnitude of a tiny number, rounded at the place p - 1 below the smallest exponent: with its leading bit at that
exponent it is a normal number, else a denormal one or zero. -/
theorem encodes_pack_tiny {f : Fmt} {p q : Nat} (bits : 0 < p) (fits : p ≤ f.p) (small : q ≤ 2 ^ (p - 1)) :
    Encodes f (f.pack q (f.emin - ((p : Int) - 1))) (q * (2 : ℝ) ^ (f.emin - ((p : Int) - 1))) := by
  rcases small.eq_or_lt with rfl | small
  · refine encodes_pack_normal (by omega) (Nat.two_pow_pos _).ne' (Nat.pow_le_pow_right two_pos (by omega)) ?_
    rw [Nat.log2_two_pow]
    omega
  rcases Nat.eq_zero_or_pos q with rfl | pos
  · simp [Fmt.pack, Encodes]
  · have leading : Nat.log2 q < p - 1 := (Nat.log2_lt pos.ne').2 small
    have denormal : f.emin - ((p : Int) - 1) + (Nat.log2 q : Int) < f.emin := by omega
    have shift : (f.emin - ((p : Int) - 1) - (f.emin - ((f.p : Int) - 1))).toNat = f.p - p := by omega
    have top : 2 ^ (f.p - 1) = 2 ^ (p - 1) * 2 ^ (f.p - p) := by rw [← pow_add]; congr 1; omega
    simp only [Fmt.pack, pos.ne', if_false, denormal, if_true, Encodes, shift, top, scale_shift]
    refine ⟨Nat.mul_lt_mul_of_pos_right small (Nat.two_pow_pos _), ?_⟩
    congr 2
    unfold Fmt.emin
    omega

/-! ## Rounding to a format (R922, R923) -/

/-! The bits of the x87 control word, of MXCSR and of the flags that the model reads by their masks. -/

theorem and_xIE (v : Byte) : (v &&& xIE != 0) = v.getLsbD 0 := by revert v; decide
theorem and_xOE (v : Byte) : (v &&& xOE != 0) = v.getLsbD 3 := by revert v; decide
theorem and_xUE (v : Byte) : (v &&& xUE != 0) = v.getLsbD 4 := by revert v; decide

theorem overflowsToInf_eq (rc : BitVec 2) (neg : Bool) :
    overflowsToInf rc neg = (rc == 0 || (rc == 1 && neg) || (rc == 2 && !neg)) := by
  revert rc neg; decide

/-- The unit of rounding to p bits: the place p - 1 below the leading bit. -/
def unitOf (p : Nat) (x : Exact) : Int := x.top - ((p : Int) - 1)

/-- A magnitude rounded to p bits. -/
def roundedTo (p : Nat) (rc : BitVec 2) (x : Exact) : Rounded := x.roundAt rc (unitOf p x)

/-- A magnitude rounded at the place p - 1 below the smallest exponent. -/
def roundedTiny (f : Fmt) (p : Nat) (rc : BitVec 2) (x : Exact) : Rounded := x.roundAt rc (f.emin - ((p : Int) - 1))

/-- The exponent of the leading bit after rounding to p bits. -/
def roundedTop (p : Nat) (rc : BitVec 2) (x : Exact) : Int :=
  if (roundedTo p rc x).q = 2 ^ p then x.top + 1 else x.top

/-- A rounded magnitude in units of 2^e as a result, with the precision flag beside others. -/
def delivered (f : Fmt) (r : Rounded) (e : Int) (flags : Byte) : FpOut :=
  { val := f.pack r.q e, flags := flags ||| peFlag r, up := r.up }

/-- The five outcomes of rounding to a format. -/
theorem round_eq (f : Fmt) (p : Nat) (rc : BitVec 2) (masks : Byte) (wrap : Int) (x : Exact) :
    f.round p rc masks wrap x =
      let (toInf, r, d) := (overflowsToInf rc x.neg, roundedTo p rc x, roundedTiny f p rc x)
      if f.emax < roundedTop p rc x then
        if masks.getLsbD 3 then { val := if toInf then f.inf else f.largest, flags := 0x28, up := toInf }
        else delivered f r (unitOf p x - wrap) 8
      else if x.top < f.emin then
        if masks.getLsbD 4 then
          { val := f.pack d.q (f.emin - ((p : Int) - 1)), flags := if d.inexact then 0x30 else 0, up := d.up }
        else delivered f r (unitOf p x + wrap) 0x10
      else delivered f r (unitOf p x) 0 := by
  have alone : (0 : Byte) ||| peFlag (roundedTo p rc x) = peFlag (roundedTo p rc x) := BitVec.zero_or
  simp only [Fmt.round, decide_eq_true_eq, and_xOE, and_xUE, delivered, alone]
  rfl

/-- A number that can be rounded has a leading bit, and its rest, if it has one, lies below the unit. -/
theorem roundable_mant {p : Nat} {x : Exact} {m : ℝ} (h : Roundable p x m) :
    x.mant ≠ 0 ∧ (x.sticky = true → x.exp < unitOf p x) := by
  obtain ⟨stands, pos, room⟩ := h
  obtain ⟨d, place, d_nonneg, d_lt, sticky_iff⟩ := standsFor_iff.1 stands
  have nonzero : x.mant ≠ 0 := by
    intro none
    cases sticky : x.sticky with
    | false =>
      rw [none, sticky_iff.1 sticky, Nat.cast_zero, zero_add] at place
      have : 0 < m / 2 ^ x.exp := by positivity
      linarith
    | true =>
      have := room sticky
      have := Nat.two_pow_pos p
      omega
  refine ⟨nonzero, fun sticky => ?_⟩
  have := (Nat.le_log2 nonzero).2 (room sticky)
  unfold unitOf Exact.top
  omega

/-- The leading bit of a number that can be rounded is that of the magnitude. -/
theorem roundable_top {p : Nat} {x : Exact} {m : ℝ} (h : Roundable p x m) : (2 : ℝ) ^ x.top ≤ m ∧ m < 2 ^ (x.top + 1) := by
  obtain ⟨d, place, d_nonneg, d_lt, -⟩ := standsFor_iff.1 h.1
  have leading := leading_bit (roundable_mant h).1 (a := m / 2 ^ x.exp) (by linarith) (by linarith) x.exp
  rwa [div_mul_cancel₀ _ (by positivity)] at leading

/-- p bits are kept, or the carry out of them. -/
theorem roundedTo_bounds {p : Nat} {x : Exact} {m : ℝ} (h : Roundable p x m) (bits : 0 < p) (rc : BitVec 2) :
    2 ^ (p - 1) ≤ (roundedTo p rc x).q ∧ (roundedTo p rc x).q ≤ 2 ^ p := by
  obtain ⟨low, high⟩ := roundable_top h
  have rounded := roundsTo_roundAt h.1 rc (roundable_mant h).2
  have bottom : x.top = unitOf p x + ((p - 1 : Nat) : Int) := by unfold unitOf; omega
  have carry : x.top + 1 = unitOf p x + (p : Int) := by unfold unitOf; omega
  exact ⟨(roundsTo_two_pow rounded bottom).1 low, (roundsTo_two_pow rounded carry).2 high.le⟩

/-- Of a tiny number no more than the smallest exponent's leading bit is kept. -/
theorem roundedTiny_spec {f : Fmt} {p : Nat} {x : Exact} {m : ℝ} (h : Roundable p x m) (bits : 0 < p) (rc : BitVec 2)
    (tiny : x.top < f.emin) : RoundsTo rc x.neg (f.emin - ((p : Int) - 1)) m (roundedTiny f p rc x) ∧
      (roundedTiny f p rc x).q ≤ 2 ^ (p - 1) := by
  have lower : unitOf p x < f.emin - ((p : Int) - 1) := by unfold unitOf; omega
  have rounded := roundsTo_roundAt h.1 rc fun sticky => ((roundable_mant h).2 sticky).trans lower
  have le_least : m ≤ 2 ^ f.emin := (roundable_top h).2.le.trans (zpow_le_zpow_right₀ one_le_two (by omega))
  have least : f.emin = f.emin - ((p : Int) - 1) + ((p - 1 : Nat) : Int) := by omega
  exact ⟨rounded, (roundsTo_two_pow rounded least).2 le_least⟩

/-- The leading bit after rounding to p bits. -/
theorem log2_roundedTo {p : Nat} {x : Exact} {m : ℝ} (h : Roundable p x m) (bits : 0 < p) (rc : BitVec 2) :
    unitOf p x + (Nat.log2 (roundedTo p rc x).q : Int) = roundedTop p rc x := by
  obtain ⟨low, high⟩ := roundedTo_bounds h bits rc
  rw [log2_of_rounded bits low high, roundedTop, unitOf]
  split <;> omega

/-- A precision that a format has, and a change of exponent that takes no overflow below the normal range. -/
structure Supports (f : Fmt) (p : Nat) (wrap : Int) : Prop where
  bits : 0 < p
  fits : p ≤ f.p
  range : 0 < f.emax
  wraps : wrap ≤ 2 * f.emax

/-- A rounded magnitude of the normal range, its exponent moved or not, is encoded as it is. -/
theorem encodes_delivered {f : Fmt} {p : Nat} {wrap : Int} {x : Exact} {m : ℝ} (ok : Supports f p wrap) (h : Roundable p x m)
    (rc : BitVec 2) (e : Int) (flags : Byte) (least : f.emin ≤ roundedTop p rc x + e) :
    Encodes f (delivered f (roundedTo p rc x) (unitOf p x + e) flags).val
      ((roundedTo p rc x).q * (2 : ℝ) ^ unitOf p x * 2 ^ e) := by
  obtain ⟨low, high⟩ := roundedTo_bounds h ok.bits rc
  have := Nat.two_pow_pos (p - 1)
  rw [mul_assoc, ← zpow_add₀ two_ne_zero]
  refine encodes_pack_normal (ok.bits.trans_le ok.fits) (by omega) (high.trans (Nat.pow_le_pow_right two_pos ok.fits)) ?_
  have := log2_roundedTo h ok.bits rc
  omega

/-- What `Fmt.round` answers, case by case of the leading bit after rounding. -/
theorem roundedIn_round {f : Fmt} {p : Nat} {wrap : Int} (ok : Supports f p wrap) (rc : BitVec 2) (masks : Byte) {x : Exact}
    {m : ℝ} (h : Roundable p x m) {d : Rounded} (tiny : x.top < f.emin → d = roundedTiny f p rc x) :
    RoundedIn f p rc masks wrap x.neg x.top (roundedTo p rc x) d (f.round p rc masks wrap x) := by
  have value_le (t : Int) : (2 : ℝ) ^ t ≤ (roundedTo p rc x).q * (2 : ℝ) ^ unitOf p x ↔ t ≤ roundedTop p rc x := by
    have low := (roundedTo_bounds h ok.bits rc).1
    have := Nat.two_pow_pos (p - 1)
    rw [two_zpow_le_iff (by omega), log2_roundedTo h ok.bits]
  have top_le : x.top ≤ roundedTop p rc x ∧ roundedTop p rc x ≤ x.top + 1 := by unfold roundedTop; split <;> omega
  have least_eq : 1 - f.emax = f.emin := rfl
  obtain ⟨bits, fits, range, wraps⟩ := id ok
  rw [round_eq]
  unfold RoundedIn
  rw [show x.top - ((p : Int) - 1) = unitOf p x from rfl, ← overflowsToInf_eq]
  dsimp only
  rw [least_eq]
  refine ⟨fun large => ?overflow, fun within normal => ?normal, fun small => ?tiny⟩
  case overflow =>
    rw [if_pos (show f.emax < roundedTop p rc x from (value_le _).1 large)]
    cases masks.getLsbD 3 with
    | false => exact ⟨rfl, rfl, encodes_delivered ok h rc (-wrap) 8 (by have := (value_le _).1 large; omega)⟩
    | true =>
      have field : f.special - 1 = (2 * f.emax).toNat := by unfold Fmt.special; omega
      simp only [if_true, Fmt.inf, Fmt.largest, field]
      rfl
  case normal =>
    have within : ¬f.emax < roundedTop p rc x := mt (value_le _).2 within.not_ge
    rw [if_neg within, if_neg normal.not_gt]
    have encoded := encodes_delivered ok h rc 0 0 (by omega)
    exact ⟨BitVec.zero_or, rfl, by simpa using encoded⟩
  case tiny =>
    have within : ¬f.emax < roundedTop p rc x := by omega
    rw [if_neg within, if_pos small, tiny small]
    cases masks.getLsbD 4 with
    | false => exact ⟨rfl, rfl, fun least => encodes_delivered ok h rc wrap 0x10 (by omega)⟩
    | true => exact ⟨rfl, rfl, encodes_pack_tiny bits fits (roundedTiny_spec h bits rc small).2⟩

/-- `Fmt.round` gives what 44 R922 and R923 say of each magnitude: its leading bit and its two roundings are the model's. -/
theorem roundsIn_round {f : Fmt} {p : Nat} {wrap : Int} (ok : Supports f p wrap) (rc : BitVec 2) (masks : Byte) {x : Exact}
    {m : ℝ} (h : Roundable p x m) : RoundsIn f p rc masks wrap x.neg m (f.round p rc masks wrap x) := by
  intro top r d low high rounded atLeast
  obtain rfl : x.top = top := leading_bit_unique (roundable_top h) ⟨low, high⟩
  obtain rfl : r = roundedTo p rc x := roundsTo_unique rounded (roundsTo_roundAt h.1 rc (roundable_mant h).2)
  exact roundedIn_round ok rc masks h fun tiny => roundsTo_unique atLeast (roundedTiny_spec h ok.bits rc tiny).1

/-! ## Values -/

/-- The signed number of units of 2^e that the operations of the model compute with. -/
def units (e : Int) (x : Exact) : Int := (if x.neg then -1 else 1) * ((x.mant * 2 ^ (x.exp - e).toNat : Nat) : Int)

theorem units_mul {e : Int} {x : Exact} (h : e ≤ x.exp) : (units e x : ℚ) * 2 ^ e = x.rat := by
  have place : e + ((x.exp - e).toNat : Int) = x.exp := by omega
  have magnitude := scale_shift (K := ℚ) x.mant (x.exp - e).toNat e
  rw [place] at magnitude
  rw [units, Exact.rat, Int.cast_mul, Int.cast_natCast, mul_assoc, magnitude, ← mul_assoc]
  congr 2
  split <;> simp

/-- The value in the real numbers, in which a root has its place. -/
theorem rat_real (x : Exact) : (x.rat : ℝ) = (if x.neg then -1 else 1) * x.mant * 2 ^ x.exp := by
  rw [Exact.rat]
  cases x.neg <;> simp

/-! ## Comparison (R926) -/

/-- The codes of an order of two values that may be compared. -/
def codesFor (equal less : Prop) [Decidable equal] [Decidable less] : Codes :=
  { c3 := decide equal, c2 := false, c0 := decide less }

theorem codesOf_compare (a b : Int) : codesOf (compare a b) = codesFor (a = b) (a < b) := by
  simp only [codesOf, codesFor, Codes.mk.injEq, true_and]
  constructor <;> rw [Bool.eq_iff_iff, beq_iff_eq, decide_eq_true_iff]
  · exact compare_eq_iff_eq
  · exact compare_lt_iff_lt

/-- The order of whole numbers is that of the multiples of a power of two. -/
theorem codesFor_scaled (a b e : Int) :
    codesFor (a = b) (a < b) = codesFor ((a : ℚ) * 2 ^ e = b * 2 ^ e) ((a : ℚ) * 2 ^ e < b * 2 ^ e) := by
  have pos : (0 : ℚ) < 2 ^ e := by positivity
  simp [codesFor, mul_lt_mul_iff_left₀ pos, pos.ne']

/-- The value of a number or of a zero. -/
def valueOrZero : Option Exact → ℚ
  | none => 0
  | some x => x.rat

/-- The units of 2^e in a number or a zero. -/
def unitsOrZero (e : Int) : Option Exact → Int
  | none => 0
  | some x => units e x

theorem unitsOrZero_mul {e : Int} {x : Option Exact} (h : ∀ z ∈ x, e ≤ z.exp) :
    (unitsOrZero e x : ℚ) * 2 ^ e = valueOrZero x := by
  cases x with
  | none => simp [unitsOrZero, valueOrZero]
  | some z => exact units_mul (h z rfl)

/-- Two numbers are compared in units of their lower last place. -/
theorem exactCmp_eq (x y : Option Exact) : ∃ e : Int, (∀ z ∈ x, e ≤ z.exp) ∧ (∀ z ∈ y, e ≤ z.exp) ∧
    exactCmp x y = compare (unitsOrZero e x) (unitsOrZero e y) := by
  cases x with
  | none =>
    cases y with
    | none => exact ⟨0, by simp, by simp, rfl⟩
    | some y => exact ⟨min y.exp y.exp, by simp, by simp, rfl⟩
  | some x =>
    cases y with
    | none => exact ⟨min x.exp x.exp, by simp, by simp, rfl⟩
    | some y => exact ⟨min x.exp y.exp, by simp, by simp, rfl⟩

theorem codesOf_exactCmp (x y : Option Exact) :
    codesOf (exactCmp x y) = codesFor (valueOrZero x = valueOrZero y) (valueOrZero x < valueOrZero y) := by
  obtain ⟨e, low, low', compared⟩ := exactCmp_eq x y
  rw [compared, codesOf_compare, codesFor_scaled _ _ e]
  simp only [unitsOrZero_mul low, unitsOrZero_mul low']

/-- On which side of the finite values an infinity is. -/
def beyond : Val → Int
  | .inf neg => if neg then -1 else 1
  | _ => 0

/-- The codes of the order of two values: the infinities outermost, then the numbers, the zeros alike. -/
def orderCodes (a b : Val) : Codes :=
  codesFor (beyond a = beyond b ∧ valueOrZero a.exact = valueOrZero b.exact)
    (beyond a < beyond b ∨ (beyond a = beyond b ∧ valueOrZero a.exact < valueOrZero b.exact))

theorem codesOf_valCmp (a b : Val) : codesOf (valCmp a b) = orderCodes a b := by
  have finite {a b : Val} (ha : beyond a = 0) (hb : beyond b = 0) (cmp : valCmp a b = exactCmp a.exact b.exact) :
      codesOf (valCmp a b) = orderCodes a b := by
    simp [cmp, codesOf_exactCmp, orderCodes, ha, hb]
  cases a with
  | inf m =>
    cases b with
    | inf n => cases m <;> cases n <;> rfl
    | zero n => cases m <;> rfl
    | fin y => cases m <;> rfl
  | zero m =>
    cases b with
    | inf n => cases n <;> rfl
    | zero n => exact finite rfl rfl rfl
    | fin y => exact finite rfl rfl rfl
  | fin x =>
    cases b with
    | inf n => cases n <;> rfl
    | zero n => exact finite rfl rfl rfl
    | fin y => exact finite rfl rfl rfl

/-! ## The fields of an extended value (R921) -/

theorem extExp_eq (v : Word80) : extExp v = v.toNat / 2 ^ 64 % 2 ^ 15 := by
  rw [extExp, BitVec.extractLsb'_toNat, Nat.shiftRight_eq_div_pow]

theorem extSig_toNat (v : Word80) : (extSig v).toNat = v.toNat % 2 ^ 64 := by
  rw [extSig, BitVec.extractLsb'_toNat, Nat.shiftRight_zero]

theorem extExact_eq (v : Word80) : extExact v = extNumber v := by
  rw [extExact, extNumber, extExp_eq, extSig_toNat, extNeg]

theorem extVal_eq (v : Word80) : extVal v =
    if extCls v = .zero then .zero (v.getLsbD 79) else if extCls v = .inf then .inf (v.getLsbD 79) else .fin (extNumber v) := by
  rw [extVal, extExact_eq]
  cases extCls v <;> rfl

theorem beyond_extVal (v : Word80) : beyond (extVal v) = if extCls v = .inf then (if v.getLsbD 79 then -1 else 1) else 0 := by
  rw [extVal_eq]
  cases extCls v <;> rfl

theorem valueOrZero_extVal (v : Word80) : valueOrZero (extVal v).exact =
    if extCls v = .zero ∨ extCls v = .inf then 0
    else (if v.getLsbD 79 then -1 else 1) * (extNumber v).mant * (2 : ℚ) ^ (extNumber v).exp := by
  rw [extVal_eq]
  cases extCls v <;> rfl

/-- The denormal exception is flagged and not masked. -/
theorem denormal_held (den : Bool) (masks : Byte) :
    (flagIf den xDE &&& ~~~masks != 0) = true ↔ (if den then 2 else 0 : Byte) = 2 ∧ masks.getLsbD 1 = false := by
  revert den masks; decide

/-- A comparison finds what 44 R926 says: for two values that may be compared, their order. -/
theorem compared_eq (f : Fpu) (ordered : Bool) (a b : XArg) : f.compared ordered a b = comparison f.masks ordered a b := by
  unfold Fpu.compared comparison
  dsimp only
  rw [and_xIE]
  refine ite_congr rfl (fun empty => rfl) fun _ => ite_congr rfl (fun invalid => rfl) fun _ =>
    ite_congr rfl (fun quiet => rfl) fun _ => ite_congr (propext (denormal_held _ _)) (fun held => ?_) fun _ => ?_
  · rw [← held.1]; rfl
  · rw [codesOf_valCmp, orderCodes]
    simp only [beyond_extVal, valueOrZero_extVal]
    rfl

/-! ## An element with flush to zero (46 R1143) -/

theorem sseMasks_eq (mx : Word32) : sseMasks mx = (mx >>> 7).setWidth 8 &&& 0x3F := by
  unfold sseMasks
  ext i hi
  interval_cases i <;> simp

theorem sseRc_eq (mx : Word32) : sseRc mx = (mx >>> 13).setWidth 2 := by
  unfold sseRc
  ext i hi
  simp

theorem sRound_fin (mx : Word32) (f : Fmt) (x : Exact) :
    let masks : Byte := (mx >>> 7).setWidth 8 &&& 0x3F
    let o := f.round f.p ((mx >>> 13).setWidth 2) masks 0 x
    let flushed := mx.getLsbD 15 && masks.getLsbD 4 && o.flags.getLsbD 4
    sRound mx f (.fin x) =
      { pre := 0, post := o.flags, val := fpOf f x.neg (if flushed then { exp := 0, sig := 0 } else o.val) } := by
  intro masks o flushed
  have rounded : f.round f.p (sseRc mx) (sseMasks mx) 0 x = o := by rw [sseRc_eq, sseMasks_eq]
  have flush : (sseFz mx && o.flags &&& xUE != 0 && sseMasks mx &&& xUE != 0) = flushed := by
    rw [and_xUE, and_xUE, sseMasks_eq, Bool.and_right_comm]
    rfl
  simp only [sRound, rounded, flush]
  cases flushed <;> rfl

/-! ## Rounding and order -/

/-- The formats and precisions of 44 R922 and 46 R1143. -/
theorem supports_of_mem {f : Fmt} {p : Nat} {wrap : Int} (h : (f, p, wrap) ∈ [(Fmt.single, 24, 0), (.double, 53, 0),
    (.extended, 24, 24576), (.extended, 53, 24576), (.extended, 64, 24576)]) : Supports f p wrap := by
  simp only [List.mem_cons, List.not_mem_nil, or_false, Prod.mk.injEq] at h
  obtain ⟨rfl, rfl, rfl⟩ | ⟨rfl, rfl, rfl⟩ | ⟨rfl, rfl, rfl⟩ | ⟨rfl, rfl, rfl⟩ | ⟨rfl, rfl, rfl⟩ := h <;>
    constructor <;> decide

/-- Settles O38: a number is rounded by what lies below its unit, the outcomes of a format are those of the leading bit after
rounding, and values are ordered by their infinities and their numbers. -/
theorem roundingAndOrder : Obligations.RoundingAndOrder := by
  unfold Obligations.RoundingAndOrder
  exact ⟨fun _ rc _ _ stands room => roundsTo_roundAt stands rc room,
    fun _ _ rc masks _ _ _ format roundable => roundsIn_round (supports_of_mem format) rc masks roundable,
    fun _ _ _ _ _ => ⟨rfl, rfl, rfl⟩, fun mx f _ x _ => ⟨rfl, rfl, sRound_fin mx f x⟩, compared_eq⟩

/-! ## Exact operations (R922) -/

theorem exactAdd_eq (x y : Exact) : Exact.add x y =
    let e := min x.exp y.exp
    let n := units e x + units e y
    if n = 0 then none else some { neg := decide (n < 0), mant := n.natAbs, exp := e } := rfl

/-- A whole number of units is its sign and its magnitude. -/
theorem rat_ofInt (n e : Int) : ({ neg := decide (n < 0), mant := n.natAbs, exp := e } : Exact).rat = n * 2 ^ e := by
  rw [Exact.rat, Nat.cast_natAbs]
  congr 1
  rcases lt_or_ge n 0 with neg | pos
  · simp [neg, abs_of_neg neg]
  · simp [pos.not_gt, abs_of_nonneg pos]

theorem units_add (x y : Exact) :
    ((units (min x.exp y.exp) x + units (min x.exp y.exp) y : Int) : ℚ) * 2 ^ min x.exp y.exp = x.rat + y.rat := by
  rw [Int.cast_add, add_mul, units_mul (min_le_left ..), units_mul (min_le_right ..)]

theorem exactAdd_some {x y z : Exact} (h : Exact.add x y = some z) :
    z.rat = x.rat + y.rat ∧ z.mant ≠ 0 ∧ z.sticky = false := by
  rw [exactAdd_eq] at h
  dsimp only at h
  split at h
  next zero => cases h
  next nonzero =>
    cases h
    exact ⟨by rw [rat_ofInt, units_add], by simpa using nonzero, rfl⟩

theorem exactAdd_none {x y : Exact} (h : Exact.add x y = none) : x.rat + y.rat = 0 := by
  rw [exactAdd_eq] at h
  dsimp only at h
  split at h
  next zero => rw [← units_add, zero, Int.cast_zero, zero_mul]
  next nonzero => cases h

theorem abs_rat (x : Exact) : |(x.rat : ℝ)| = x.mant * 2 ^ x.exp := by
  have magnitude : |(x.mant * 2 ^ x.exp : ℝ)| = x.mant * 2 ^ x.exp := abs_of_nonneg (by positivity)
  rw [rat_real, mul_assoc, abs_mul, magnitude]
  split <;> simp

/-- The quotient: its whole part at 132 places, and what is left of the dividend over the divisor. -/
theorem standsFor_div (x : Exact) {y : Exact} (h : y.mant ≠ 0) : StandsFor (x.div y) |(x.rat : ℝ) / y.rat| := by
  have pos : (0 : ℝ) < y.mant := by positivity
  have divided := Nat.div_add_mod (x.mant * 2 ^ 132) y.mant
  have rest_lt := Nat.mod_lt (x.mant * 2 ^ 132) (Nat.pos_of_ne_zero h)
  rw [standsFor_iff, abs_div, abs_rat, abs_rat]
  simp only [Exact.div]
  refine ⟨((x.mant * 2 ^ 132 % y.mant : Nat) : ℝ) / y.mant, ?_, by positivity, ?_, ?_⟩
  · rw [zpow_sub₀ two_ne_zero, zpow_sub₀ two_ne_zero]
    field_simp
    exact_mod_cast divided.symm
  · rw [div_lt_one pos]; exact_mod_cast rest_lt
  · simp [h]

theorem div_bits {x y : Exact} (hx : x.mant ≠ 0) (hy : y.mant ≠ 0) (small : y.mant < 2 ^ 64) :
    2 ^ 66 ≤ (x.div y).mant := by
  show 2 ^ 66 ≤ x.mant * 2 ^ 132 / y.mant
  refine (Nat.le_div_iff_mul_le (Nat.pos_of_ne_zero hy)).2 ?_
  calc 2 ^ 66 * y.mant ≤ 2 ^ 66 * 2 ^ 64 := Nat.mul_le_mul_left _ small.le
    _ ≤ 1 * 2 ^ 132 := by norm_num
    _ ≤ x.mant * 2 ^ 132 := Nat.mul_le_mul_right _ (Nat.pos_of_ne_zero hx)

/-- The places that the square root of a number adds to it, so that what is left of its exponent is even. -/
def sqrtPlaces (x : Exact) : Nat := 140 + (x.exp % 2).toNat

/-- The whole number of which the square root is taken. -/
def radicand (x : Exact) : Nat := x.mant * 2 ^ sqrtPlaces x

theorem exactSqrt_eq (x : Exact) : x.sqrt =
    let r := isqrt (radicand x) 106 0
    { neg := false, mant := r, exp := (x.exp - sqrtPlaces x) / 2, sticky := r * r != radicand x } := rfl

theorem radicand_bounds {x : Exact} (small : x.mant < 2 ^ 64) :
    radicand x < 2 ^ 205 ∧ (x.mant ≠ 0 → 2 ^ 140 ≤ radicand x) := by
  constructor
  · have places : 2 ^ sqrtPlaces x ≤ 2 ^ 141 := Nat.pow_le_pow_right two_pos (by unfold sqrtPlaces; omega)
    calc radicand x < 2 ^ 64 * 2 ^ 141 := Nat.mul_lt_mul_of_lt_of_le small places (by positivity)
      _ = 2 ^ 205 := by norm_num
  · intro nonzero
    have places : 2 ^ 140 ≤ 2 ^ sqrtPlaces x := Nat.pow_le_pow_right two_pos (by unfold sqrtPlaces; omega)
    calc 2 ^ 140 = 1 * 2 ^ 140 := (one_mul _).symm
      _ ≤ radicand x := Nat.mul_le_mul (Nat.pos_of_ne_zero nonzero) places

/-- The significand of the root is the largest whole number whose square is not above the radicand. -/
theorem sqrt_mant_spec {x : Exact} (small : x.mant < 2 ^ 64) :
    x.sqrt.mant * x.sqrt.mant ≤ radicand x ∧ radicand x < (x.sqrt.mant + 1) * (x.sqrt.mant + 1) := by
  have bound := (radicand_bounds small).1
  rw [exactSqrt_eq]
  refine isqrt_spec (radicand x) 106 0 (Nat.zero_le _) (bound.trans_le ?_)
  norm_num

/-- A number is its radicand at twice the exponent of its square root. -/
theorem rat_radicand {x : Exact} (positive : x.neg = false) :
    (x.rat : ℝ) = radicand x * ((2 : ℝ) ^ x.sqrt.exp * 2 ^ x.sqrt.exp) := by
  have half : x.sqrt.exp + x.sqrt.exp + sqrtPlaces x = x.exp := by
    rw [exactSqrt_eq]; unfold sqrtPlaces; dsimp only; omega
  rw [← zpow_add₀ two_ne_zero, radicand, scale_shift, half, rat_real, positive]
  simp

theorem standsFor_sqrt {x : Exact} (positive : x.neg = false) (small : x.mant < 2 ^ 64) :
    StandsFor x.sqrt (Real.sqrt x.rat) := by
  obtain ⟨low, high⟩ := sqrt_mant_spec small
  have scale : (0 : ℝ) < 2 ^ x.sqrt.exp := by positivity
  have sticky_eq : x.sqrt.sticky = (x.sqrt.mant * x.sqrt.mant != radicand x) := by rw [exactSqrt_eq]
  rw [rat_radicand positive, Real.sqrt_mul (Nat.cast_nonneg _), Real.sqrt_mul_self scale.le, standsFor_iff,
    mul_div_cancel_right₀ _ scale.ne', sticky_eq]
  generalize x.sqrt.mant = r at *
  have low : (r : ℝ) ≤ √(radicand x) := Real.le_sqrt_of_sq_le (by rw [sq]; exact_mod_cast low)
  have high : √(radicand x) < (r : ℝ) + 1 := (Real.sqrt_lt' (by positivity)).2 (by rw [sq]; exact_mod_cast high)
  refine ⟨√(radicand x) - r, by ring, by linarith, by linarith, ?_⟩
  rw [bne_eq_false_iff_eq, sub_eq_zero, Real.sqrt_eq_iff_mul_self_eq (Nat.cast_nonneg _) (Nat.cast_nonneg _)]
  exact_mod_cast eq_comm

theorem sqrt_bits {x : Exact} (nonzero : x.mant ≠ 0) (small : x.mant < 2 ^ 64) : 2 ^ 66 ≤ x.sqrt.mant := by
  obtain ⟨-, high⟩ := sqrt_mant_spec small
  have low := (radicand_bounds small).2 nonzero
  by_contra less
  have less : x.sqrt.mant + 1 ≤ 2 ^ 66 := by omega
  have := low.trans_lt (high.trans_le (Nat.mul_le_mul less less))
  norm_num at this

/-! ## The fields of single and double values (R921; 46 R1144) -/

/-- The class that the fields of an encoded value say: the exponent field of w bits and the fraction. -/
def fieldCls (p w field frac : Nat) : Cls :=
  if field = 0 then (if frac = 0 then .zero else .denormal)
  else if field < 2 ^ w - 1 then .normal
  else if frac = 0 then .inf else if frac.testBit (p - 2) then .qnan else .snan

section
variable {f : Fmt} {w : Nat} (fieldBits : f.special + 1 = 2 ^ w)
include fieldBits

theorem fpExp_eq (v : Nat) : fpExp f v = v / 2 ^ (f.p - 1) % 2 ^ w := by rw [fpExp, fieldBits]

theorem fpNeg_eq (bits : 0 < f.p) (v : Nat) : fpNeg f v = v.testBit (f.p - 1 + w) := by
  rw [fpNeg, fieldBits, Nat.log2_two_pow]
  congr 1
  omega

theorem fpCls_eq (v : Nat) : fpCls f v = fieldCls f.p w (v / 2 ^ (f.p - 1) % 2 ^ w) (v % 2 ^ (f.p - 1)) := by
  have special : f.special = 2 ^ w - 1 := by omega
  rw [fpCls, fpExp_eq fieldBits, special]
  rfl

theorem fpOf_eq (neg : Bool) (k : Packed) :
    fpOf f neg k = (if neg then 2 ^ w * 2 ^ (f.p - 1) else 0) + k.exp * 2 ^ (f.p - 1) + k.sig % 2 ^ (f.p - 1) := by
  rw [fpOf, fieldBits]

/-- The bits of a zero are a zero of its sign. -/
theorem fpVal_zero (bits : 0 < f.p) (neg : Bool) : fpVal f (fpZero f neg) = .zero neg := by
  have bits_eq : fpZero f neg = if neg then 2 ^ w * 2 ^ (f.p - 1) else 0 := by
    rw [fpZero, fpOf_eq fieldBits]; simp
  have cls : fpCls f (fpZero f neg) = .zero := by
    rw [fpCls_eq fieldBits, bits_eq]
    cases neg <;> simp [fieldCls]
  have sign : fpNeg f (fpZero f neg) = neg := by
    rw [fpNeg_eq fieldBits bits, bits_eq, ← pow_add, add_comm w]
    cases neg <;> simp
  rw [fpVal, cls, sign]
end

theorem fpVal_of_cls (f : Fmt) (v : Nat) : (fpCls f v = .zero → fpVal f v = .zero (fpNeg f v)) ∧
    (fpCls f v = .inf → fpVal f v = .inf (fpNeg f v)) ∧
    (fpCls f v = .normal ∨ fpCls f v = .denormal → fpVal f v = .fin (fpExact f v)) := by
  unfold fpVal
  cases fpCls f v <;> simp

theorem fpExact_eq (f : Fmt) (v : Nat) : fpExact f v = {
    neg := fpNeg f v, mant := if fpExp f v = 0 then fpFrac f v else 2 ^ (f.p - 1) + fpFrac f v
    exp := (max (fpExp f v) 1 : Nat) - f.emax - ((f.p : Int) - 1) } := by
  unfold fpExact
  dsimp only
  congr 1
  split <;> omega

/-- Under DAZ a denormal source raises no flag and is read as a zero of its sign (46 R1144). -/
theorem daz_eq (mx : Word32) (f : Fmt) (v : Nat) (zero : ∀ neg, fpVal f (fpZero f neg) = .zero neg) :
    let daz : Bool := fpCls f v == .denormal && mx.getLsbD 6
    sDen mx f v = (fpCls f v == .denormal && !mx.getLsbD 6) ∧
    sRead mx f v = (if daz then fpOf f (fpNeg f v) { exp := 0, sig := 0 } else v) ∧
    sVal mx f v = if daz then .zero (fpNeg f v) else fpVal f v := by
  refine ⟨rfl, rfl, ?_⟩
  rw [sVal, sRead, apply_ite (fpVal f), zero]
  rfl

/-! ## The fields of an extended value (R921) -/

theorem extCls_eq (v : Word80) :
    let field := v.toNat / 2 ^ 64 % 2 ^ 15
    let sig := v.toNat % 2 ^ 64
    extCls v = (if field = 0 then (if sig = 0 then .zero else .denormal)
      else if sig < 2 ^ 63 then .unsupported
      else if field < 0x7FFF then .normal
      else if sig = 2 ^ 63 then .inf else if sig / 2 ^ 62 % 2 = 1 then .qnan else .snan) := by
  intro field sig
  have sig_eq : (extSig v).toNat = sig := extSig_toNat v
  have zero : extSig v = 0 ↔ sig = 0 := by rw [← BitVec.toNat_inj, sig_eq]; rfl
  have inf : extSig v = 0x8000000000000000 ↔ sig = 2 ^ 63 := by rw [← BitVec.toNat_inj, sig_eq]; rfl
  have integer : (!(extSig v).getLsbD 63) = true ↔ sig < 2 ^ 63 := by
    have high : (extSig v).getLsbD 63 = decide (2 ^ 63 ≤ sig) := by
      rw [← sig_eq]
      exact BitVec.msb_eq_decide (extSig v)
    rw [high, Bool.not_eq_true', decide_eq_false_iff_not, not_le]
  have quiet : (extSig v).getLsbD 62 = true ↔ sig / 2 ^ 62 % 2 = 1 := by
    rw [BitVec.getLsbD, sig_eq, Nat.testBit_eq_decide_div_mod_eq, decide_eq_true_iff]
  rw [extCls, extExp_eq]
  simp only [zero, inf, integer, quiet]
  rfl

theorem extVal_of_cls (v : Word80) : (extCls v = .zero → extVal v = .zero (v.getLsbD 79)) ∧
    (extCls v = .inf → extVal v = .inf (v.getLsbD 79)) ∧ (finite v → extVal v = .fin (extNumber v)) := by
  rw [extVal_eq, finite]
  cases extCls v <;> simp

theorem extOf_toNat {neg : Bool} {k : Packed} (field : k.exp < 2 ^ 15) (sig : k.sig < 2 ^ 64) :
    (extOf neg k).toNat = (if neg then 2 ^ 79 else 0) + k.exp * 2 ^ 64 + k.sig := by
  rw [extOf, BitVec.toNat_append, BitVec.toNat_append, BitVec.toNat_ofNat, BitVec.toNat_ofNat, Nat.mod_eq_of_lt field,
    Nat.mod_eq_of_lt sig, ← Nat.shiftLeft_add_eq_or_of_lt field, ← Nat.shiftLeft_add_eq_or_of_lt sig, Nat.shiftLeft_eq,
    Nat.shiftLeft_eq]
  cases neg <;> simp; ring

/-- Settles O37: sums and products are exact, quotients and roots are cut below 67 bits with what is cut kept as sticky, and
the fields of each format say its class, sign and number. -/
theorem exactArithmetic : Obligations.ExactArithmetic := by
  unfold Obligations.ExactArithmetic
  intro value
  have value_eq (x : Exact) : value x = (x.rat : ℝ) := (rat_real x).symm
  refine ⟨fun x y _ _ => ⟨fun z sum => ?sum, fun sum => ?zeroSum, ?product, rfl, fun nonzero => ?quotient,
    fun positive small => ?root⟩, fun f w v mx format => ?fp, fun v => ⟨extCls_eq v, extVal_of_cls v⟩, fun neg k => ?encode⟩
  case sum =>
    obtain ⟨total, nonzero, exact⟩ := exactAdd_some sum
    rw [value_eq, value_eq, value_eq, total]
    exact ⟨Rat.cast_add _ _, nonzero, exact⟩
  case zeroSum =>
    rw [value_eq, value_eq]
    exact_mod_cast exactAdd_none sum
  case product =>
    rw [value_eq, value_eq, value_eq, Exact.rat_mul]
    exact Rat.cast_mul _ _
  case quotient =>
    rw [value_eq, value_eq]
    exact ⟨rfl, standsFor_div x nonzero, fun some small => div_bits some nonzero small⟩
  case root =>
    rw [value_eq]
    exact ⟨rfl, standsFor_sqrt positive small, fun some => sqrt_bits some small⟩
  case fp =>
    have fieldBits : f.special + 1 = 2 ^ w := by obtain ⟨rfl, rfl⟩ | ⟨rfl, rfl⟩ := format <;> rfl
    have bits : 0 < f.p := by obtain ⟨rfl, rfl⟩ | ⟨rfl, rfl⟩ := format <;> decide
    intro field frac neg cls
    have cls_eq : fpCls f v = cls := fpCls_eq fieldBits v
    have neg_eq : fpNeg f v = neg := fpNeg_eq fieldBits bits v
    have field_eq : fpExp f v = field := fpExp_eq fieldBits v
    have number := fpExact_eq f v
    obtain ⟨zero, inf, finite⟩ := fpVal_of_cls f v
    have daz := daz_eq mx f v (fpVal_zero fieldBits bits)
    have nan : sNan f v = (fpCls f v == .snan || fpCls f v == .qnan) := rfl
    rw [neg_eq, field_eq] at number
    rw [cls_eq, neg_eq] at zero inf
    rw [cls_eq, number] at finite
    rw [cls_eq, neg_eq] at daz
    rw [cls_eq] at nan
    exact ⟨cls_eq, neg_eq, nan, zero, inf, finite, daz⟩
  case encode => exact ⟨extOf_toNat, fpOf_eq (w := 8) rfl neg k, fpOf_eq (w := 11) rfl neg k⟩

end Sys2Proof.Proofs
end

/-! Proofs of the family 60_exceptions: memory accesses without paging, the frame that a delivery pushes, and delivery in
real-address mode (60 R1500, R1504). -/
section
namespace Sys2Proof.Proofs
open Machine Claims

/-! ## Accesses without paging (20_memory R201) -/

/-- What memory reads as depends on the bytes held, the local APIC and where SMRAM is visible. -/
theorem physReadNat_congr {s t : State} (mem : t.mem = s.mem) (apic : t.apic = s.apic) (smm : t.inSmm = s.inSmm)
    (base : t.smbase = s.smbase) (as : List Nat) : physReadNat t as = physReadNat s as := by
  induction as with
  | nil => rfl
  | cons a rest ih =>
    have device : apicRead t a = apicRead s a := by simp only [apicRead, apic]
    have visible : t.inSmram a = s.inSmram a := by simp only [State.inSmram, smm, base]
    have kind : t.kindAt a = s.kindAt a := by rw [State.kindAt, State.kindAt, visible]
    have place : t.cell a = s.cell a := by rw [State.cell, State.cell, visible]
    have byte : physRead8 t a = physRead8 s a := by rw [physRead8, physRead8, device, kind, place, mem]
    rw [physReadNat, physReadNat, byte, ih]

theorem readLinear_congr {s t : State} (mem : t.mem = s.mem) (apic : t.apic = s.apic) (smm : t.inSmm = s.inSmm)
    (base : t.smbase = s.smbase) (la : Word32) (n : Nat) : readLinear t la n = readLinear s la n :=
  physReadNat_congr mem apic smm base _

theorem linearBytes_succ (la : Word32) (n : Nat) : linearBytes la (n + 1) = la.toNat :: linearBytes (la + 1) n := by
  simp only [linearBytes, List.range_succ_eq_map, List.map_cons, List.map_map, BitVec.add_zero]
  congr 1
  refine List.map_congr_left fun k _ => congrArg BitVec.toNat ?_
  simp only [Nat.succ_eq_add_one, BitVec.ofNat_add]
  ac_rfl

/-- Inside a page the next linear address is one higher, without wrap-around. -/
theorem toNat_add_one_of_inside {la : Word32} (inside : (la + 1).extractLsb' 0 12 ≠ 0) : (la + 1).toNat = la.toNat + 1 := by
  have low : (la + 1).toNat % 2 ^ 12 ≠ 0 := fun zero =>
    inside (BitVec.eq_of_toNat_eq (by simpa [BitVec.extractLsb'_toNat] using zero))
  have sum : (la + 1).toNat = (la.toNat + 1) % 2 ^ 32 := BitVec.toNat_add la 1
  omega

section
variable {s : State} (unpaged : s.paging = false)
include unpaged

theorem run_translate_unpaged (la : Word32) (write asUser : Bool) : Machine.translate la write asUser s = .ok la.toNat s := by
  simp [Machine.translate, unpaged]

theorem run_translateFrom_unpaged (la : Word32) (write asUser : Bool) (n : Nat) :
    translateFrom (la + 1) la.toNat write asUser n s = .ok (linearBytes (la + 1) n) s := by
  induction n generalizing la with
  | zero => rfl
  | succ n ih =>
    have rest := ih (la + 1)
    by_cases start : (la + 1).extractLsb' 0 12 = 0
    · simp only [translateFrom, if_pos start, run_bind, run_translate_unpaged unpaged, rest, afterwards_ok, run_pure,
        linearBytes_succ]
    · rw [toNat_add_one_of_inside start] at rest
      simp only [translateFrom, if_neg start, run_bind, run_pure, rest, afterwards_ok, linearBytes_succ,
        toNat_add_one_of_inside start]

theorem run_translateRange_unpaged (la : Word32) (n : Nat) (write asUser : Bool) :
    translateRange la n write asUser s = .ok (linearBytes la n) s := by
  cases n with
  | zero => rfl
  | succ n =>
    have rest := run_translateFrom_unpaged unpaged la write asUser n
    simp only [translateRange, run_bind, run_translate_unpaged unpaged, rest, afterwards_ok, run_checkDevice, linearBytes_succ,
      run_pure]

theorem run_sysRead_unpaged (la : Word32) (n : Nat) : sysRead la n s = .ok (readLinear s la n) s := by
  simp [sysRead, run_translateRange_unpaged unpaged, readLinear]
end

/-! ## The frame a delivery pushes (60 R1500) -/

theorem and_FFFF_eq (v : Word32) : v &&& 0xFFFF = BitVec.ofNat 32 (v.toNat % 2 ^ 16) := by
  have low : (v &&& 0xFFFF).toNat = v.toNat % 2 ^ 16 :=
    (BitVec.toNat_and v 0xFFFF).trans (Nat.and_two_pow_sub_one_eq_mod v.toNat 16)
  rw [← low, BitVec.ofNat_toNat, BitVec.setWidth_eq]

theorem stackBelow_eq_slotOff (big : Bool) (esp : Word32) (n k : Nat) :
    stackBelow big esp (n * (k + 1)) = slotOff big esp n k := by
  simp only [stackBelow, slotOff, and_FFFF_eq]

theorem espBelow_eq_downBy (big : Bool) (esp : Word32) (k : Nat) : espBelow big esp k = downBy big esp k := by
  have word : esp.extractLsb' 16 16 ++ (esp - BitVec.ofNat 32 k).setWidth 16 =
      BitVec.ofNat 32 (esp.toNat / 2 ^ 16 * 2 ^ 16 + (esp - BitVec.ofNat 32 k).toNat % 2 ^ 16) := by
    apply BitVec.eq_of_toNat_eq
    generalize esp - BitVec.ofNat 32 k = t
    rw [BitVec.toNat_append, ← Nat.shiftLeft_add_eq_or_of_lt (BitVec.isLt _), BitVec.extractLsb'_toNat,
      BitVec.toNat_setWidth, BitVec.toNat_ofNat, Nat.shiftLeft_eq, Nat.shiftRight_eq_div_pow]
    omega
  simp only [espBelow, downBy, word]

theorem run_checkPushWrap_ok {s : State} {off : Word32} (noWrap : s.pe = false → off ≠ 1) :
    checkPushWrap off s = .ok () s := by
  have passes : (!s.pe && off == 1) = false := by
    cases real : s.pe
    case false => simpa using noWrap real
    case true => rfl
  simp only [checkPushWrap, run_bind, run_ask, afterwards_ok, passes, Bool.false_eq_true, if_false, run_pure]

/-- In real-address mode a push from the offset 1 shuts the processor down (41 R620). -/
theorem run_checkPushWrap_one {s : State} (real : s.pe = false) : checkPushWrap 1 s = .error .shutdown s := by
  simp [checkPushWrap, real]

/-- Slots that have room, none pushed from the offset 1: the check of the frame passes. -/
theorem run_frameRoom {s : State} {r : SegReg} {big : Bool} {esp : Word32} {n : Nat} (short : M Unit) (i count : Nat)
    (room : ∀ k, i ≤ k → k < i + count →
      s.inLimit r (slotOff big esp n k) n = true ∧ (s.pe = false → stackBelow big esp (n * k) ≠ 1)) :
    frameRoom r big esp n short i count s = .ok () s := by
  induction count generalizing i with
  | zero => rfl
  | succ count ih =>
    obtain ⟨fits, noWrap⟩ := room i le_rfl (by omega)
    have rest := ih (i + 1) fun k low high => room k (by omega) (by omega)
    simp [frameRoom, run_checkPushWrap_ok noWrap, stackBelow_eq_slotOff, fits, rest]

theorem run_frameRoom_one {s : State} (real : s.pe = false) {r : SegReg} {big : Bool} {esp : Word32} {n i : Nat}
    (one : stackBelow big esp (n * i) = 1) (short : M Unit) (count : Nat) :
    frameRoom r big esp n short i (count + 1) s = .error .shutdown s := by
  simp only [frameRoom, run_bind, one, run_checkPushWrap_one real, afterwards_error]

/-- The bytes of the slots from the i-th on. -/
theorem run_frameSlots {s : State} (unpaged : s.paging = false) (r : SegReg) (big : Bool) (esp : Word32) (n i count : Nat) :
    frameSlots r big esp n false i count s =
      .ok ((List.range' i count).map fun k => linearBytes (r.base + slotOff big esp n k) n) s := by
  induction count generalizing i with
  | zero => rfl
  | succ count ih =>
    simp [frameSlots, run_translateRange_unpaged unpaged, stackBelow_eq_slotOff, ih, List.range'_succ]

theorem run_writeSlots (bytes : Nat → List Nat) (vals : List Word32) (i : Nat) (s : State) :
    writeSlots vals ((List.range' i vals.length).map bytes) s =
      .ok () (((List.range' i vals.length).zip vals).foldl (fun t p => physWriteNat t p.2.toNat (bytes p.1)) s) := by
  induction vals generalizing i s with
  | nil => rfl
  | cons v rest ih =>
    simp only [List.length_cons, List.range'_succ, List.map_cons, writeSlots, run_bind, run_writeAt, afterwards_ok, ih,
      List.zip_cons_cons, List.foldl_cons]

/-- Writing the values of a frame into its slots is `writeFrame`. -/
theorem run_writeSlots_frame (n : Nat) (at_ : Nat → Word32) (vals : List Word32) (s : State) :
    writeSlots vals ((List.range' 0 vals.length).map fun k => linearBytes (at_ k) n) s = .ok () (writeFrame n at_ s vals) := by
  rw [run_writeSlots, writeFrame, List.range_eq_range']

/-- A frame changes what stores change: memory, the marks on its bytes, the local APIC and the pending events. -/
theorem writeFrame_frame (n : Nat) (at_ : Nat → Word32) (s : State) (vals : List Word32) :
    ∃ m h p q, writeFrame n at_ s vals = { s with mem := m, adMarks := h, apic := p, pending := q } := by
  unfold writeFrame
  generalize (List.range vals.length).zip vals = slots
  induction slots generalizing s with
  | nil => exact ⟨s.mem, s.adMarks, s.apic, s.pending, rfl⟩
  | cons slot rest ih =>
    obtain ⟨m, h, p, q, first⟩ := physWriteNat_frame (linearBytes (at_ slot.1) n) s slot.2.toNat
    obtain ⟨m', h', p', q', later⟩ := ih (physWriteNat s slot.2.toNat (linearBytes (at_ slot.1) n))
    exact ⟨m', h', p', q', by rw [List.foldl_cons, later, first]⟩

/-! ## Delivery in real-address mode (R1504) -/

/-- The flags a handler starts with (R1504). -/
def handlerFlags (t : State) : State := ((t.setFlag fIF false).setFlag fTF false).setFlag fAC false

theorem run_sysRead_handlerFlags {t : State} (unpaged : t.paging = false) (gpr : Eight Word32) (la : Word32) (n : Nat) :
    sysRead la n (handlerFlags { t with gpr }) = .ok (readLinear t la n) (handlerFlags { t with gpr }) := by
  have same : readLinear (handlerFlags { t with gpr }) la n = readLinear t la n := by
    refine readLinear_congr ?mem ?apic ?smm ?base la n <;> rfl
  have unpaged : (handlerFlags { t with gpr }).paging = false := unpaged
  rw [run_sysRead_unpaged unpaged, same]

/-- What delivery leaves of the state s when its pushes leave t and the stack pointer esp and its vector is read. -/
def atVector (s t : State) (esp : Word32) (vector : Nat) : State :=
  let sel := BitVec.ofNat 16 (vector / 2 ^ 16)
  handlerFlags { t with
    gpr := s.gpr.set rSP esp
    cs := { s.cs with sel, base := sel.setWidth 32 <<< 4 }
    eip := BitVec.ofNat 32 (vector % 2 ^ 16) }

section
variable {e : Event} {saved : Word32} {s : State}

/-- Outside protected mode delivery goes by the real-address-mode table, and the inhibits and marks are spent after it. -/
theorem deliver_real (real : s.pe = false) : deliver e saved s =
    afterwards (fun _ => update Claims.delivered) (deliverReal e saved s) := by
  simp only [deliver, run_bind, run_ask, real, afterwards_ok, Bool.false_eq_true, if_false]
  rfl

theorem deliverReal_tableTooShort (short : s.idtr.limit.toNat < 4 * e.vector.toNat + 3) :
    deliverReal e saved s = .error (.event { vector := 13, err := some 0 }) s := by
  simp only [deliverReal, run_bind, run_ask, afterwards_ok, gt_iff_lt, short, if_true, raiseGP, run_raise, afterwards_error]

theorem deliverReal_stackAtOne (real : s.pe = false) (inside : 4 * e.vector.toNat + 3 ≤ s.idtr.limit.toNat)
    (one : s.stackOff s.esp = 1) : deliverReal e saved s = .error .shutdown s := by
  have first : stackBelow s.stack32 s.esp (2 * 0) = 1 := by simpa [stackBelow, State.stackOff] using one
  simp only [deliverReal, run_bind, run_ask, afterwards_ok, gt_iff_lt, inside.not_gt, if_false, id,
    run_frameRoom_one real first, afterwards_error]

/-- A frame that has room is pushed before the vector is read, so that the table may hold what was pushed (R1504). -/
theorem run_deliverReal (unpaged : s.paging = false) (inside : 4 * e.vector.toNat + 3 ≤ s.idtr.limit.toNat)
    (room : ∀ k, k < 3 → s.inLimit s.ss (slotOff s.ss.db s.esp 2 k) 2 = true ∧ stackBelow s.ss.db s.esp (2 * k) ≠ 1) :
    let t := writeFrame 2 (fun k => s.ss.base + slotOff s.ss.db s.esp 2 k) s [s.flagsImage e.kind, s.cs.sel.setWidth 32, saved]
    deliverReal e saved s = .ok () (atVector s t (downBy s.ss.db s.esp 6)
      (readLinear t (s.idtr.base + BitVec.ofNat 32 (4 * e.vector.toNat)) 4)) := by
  intro t
  have checked : frameRoom s.ss s.stack32 s.esp 2 (raiseSS 0) 0 3 s = .ok () s :=
    run_frameRoom _ 0 3 fun k _ high => ⟨(room k (by omega)).1, fun _ => (room k (by omega)).2⟩
  have slots := run_frameSlots unpaged s.ss s.stack32 s.esp 2 0 3
  have pushed : writeSlots [s.flagsImage e.kind, s.cs.sel.setWidth 32, saved]
      ((List.range' 0 3).map fun k => linearBytes (s.ss.base + slotOff s.stack32 s.esp 2 k) 2) s = .ok () t :=
    run_writeSlots_frame 2 _ [_, _, _] s
  obtain ⟨m, h, p, q, frame⟩ : ∃ m h p q, t = { s with mem := m, adMarks := h, apic := p, pending := q } :=
    writeFrame_frame _ _ _ _
  have gpr : t.gpr = s.gpr := by rw [frame]
  have cs : t.cs = s.cs := by rw [frame]
  have stillUnpaged : t.paging = false := by rw [frame]; exact unpaged
  clear_value t
  simp only [deliverReal, run_bind, run_ask, afterwards_ok, gt_iff_lt, inside.not_gt, if_false, id, checked, slots, pushed,
    run_setEsp, run_update]
  change afterwards _ (sysRead _ 4 (handlerFlags { t with gpr := { t.gpr with r4 := _ } })) = _
  rw [run_sysRead_handlerFlags stillUnpaged, afterwards_ok, run_update, atVector, ← gpr, ← cs, ← espBelow_eq_downBy]
  generalize readLinear t _ 4 = vector
  rfl
end

/-- Settles O47: by the length of the table, a stack pointer of 1, and the run of a delivery whose slots have room. -/
theorem realModeDelivery : Obligations.RealModeDelivery := by
  unfold Obligations.RealModeDelivery
  intro e saved s real unpaged
  rw [deliver_real real]
  refine ⟨fun short => ?tableTooShort, fun inside => ⟨fun one => ?stackAtOne, fun room => ?pushed⟩⟩
  case tableTooShort => rw [deliverReal_tableTooShort short, afterwards_error]
  case stackAtOne => rw [deliverReal_stackAtOne real inside one, afterwards_error]
  case pushed =>
    rw [run_deliverReal unpaged inside room, afterwards_ok, run_update]
    rfl

end Sys2Proof.Proofs
end
